-- ==== Sys2Proof/Word.lean ====
section
/-! DEFINITION. The word types of the machine (10_state.md R20, 20_memory.md R50). -/

namespace Sys2Proof

/-- A memory byte, an 8-bit register name, an 8-bit PIC register or a port value. -/
abbrev Byte := BitVec 8

/-- A general, segment or instruction-pointer register: 16 bits, wrapping modulo 65536 (R20, R24, R25). -/
abbrev Word := BitVec 16

end Sys2Proof
end

