-- ==== Sys2Proof/Config.lean ====
section
/-! DEFINITION. The named parameters of 00_scope.md R7 that have more than one value with a meaning in the spec.
MODRM_STRICT and GRAPHICS_REDIRECT have one such value each (log entry 3) and are no field. -/

namespace Sys2Proof

/-- `CMP83_MATCH` (41_arith.md R131, D5): the match pattern of opcode 0x83's ModRM byte `m`: `m &&& mask = value`. -/
structure ModrmMatch where
  mask  : Byte
  value : Byte
deriving DecidableEq, Repr

/-- `BYTE_SF_BIT` (10_state.md R28, D3): the bit of a byte result, zero-extended to 16 bits, that SF takes. -/
inductive ByteSfBit where
  | bit15
  | bit7
deriving DecidableEq, Repr

/-- `JMP_NEAR_BASE` (42_control.md R132, R145): what the displacement of `JMP rel16` counts from. -/
inductive JmpNearBase where
  | opcodeAddress
  | nextInstruction
deriving DecidableEq, Repr

/-- `MUL_F6_MODE` (44_logic_incdec_mul.md R174, D18): how opcode 0xF6 selects its form. -/
inductive MulF6Mode where
  | byModrm
  | variantAlAl
  | variantAlMemBx
deriving DecidableEq, Repr

/-- `KBD_OVERFLOW` (60_exceptions.md R222, D16): what `enqueue` does on a full queue. -/
inductive KbdOverflow where
  | naiveTail
  | dropOldest
deriving DecidableEq, Repr

/-- The parameters one machine is built with; no operation writes them (00_scope.md R7). -/
structure Config where
  parityEvenIsOne : Bool
  byteSfBit       : ByteSfBit
  cmp83Match      : ModrmMatch
  jmpNearBase     : JmpNearBase
  mulF6Mode       : MulF6Mode
  kbdOverflow     : KbdOverflow
  videoFillAttr   : Byte
deriving DecidableEq, Repr

end Sys2Proof
end

