-- ==== Sys2Proof/Machine/Bits.lean ====
section
/-! DEFINITION. Bit fields, byte order and extensions, byte patterns, shared by the decoder and the machine (00_scope.md R9). -/

namespace Sys2Proof.Machine

/-- `w[7:0]`. -/
def lowByte (w : Word) : Byte := w.extractLsb' 0 8

/-- `w[15:8]`. -/
def highByte (w : Word) : Byte := w.extractLsb' 8 8

/-- The little-endian word whose byte at the lower address is `lo` (20_memory.md R56). -/
def joinBytes (lo hi : Byte) : Word := hi ++ lo

/-- `sext_16` of a byte (R9). -/
def sext16 (b : Byte) : Word := b.signExtend 16

/-- `zext_16` of a byte (R9). -/
def zext16 (b : Byte) : Word := b.setWidth 16

/-- The ModRM byte `m` matches the pattern `p` (30_encoding.md R83, 41_arith.md R131). -/
def modrmMatches (p : ModrmMatch) (m : Byte) : Bool := m &&& p.mask == p.value

end Sys2Proof.Machine
end

