-- ==== Sys2Proof/Machine/Params.lean ====
section
/-! DEFINITION. The default of each named parameter (00_scope.md R7). -/

namespace Sys2Proof.Machine

/-- The defaults of R7: PARITY_EVEN_IS_ONE = true, BYTE_SF_BIT = 15, CMP83_MATCH = bits 7:5 are 111, JMP_NEAR_BASE =
opcode address, MUL_F6_MODE = BY_MODRM, KBD_OVERFLOW = NAIVE_TAIL, VIDEO_FILL_ATTR = 0x07. -/
def defaultConfig : Config where
  parityEvenIsOne := true
  byteSfBit := .bit15
  cmp83Match := { mask := 0xE0, value := 0xE0 }
  jmpNearBase := .opcodeAddress
  mulF6Mode := .byModrm
  kbdOverflow := .naiveTail
  videoFillAttr := 0x07

end Sys2Proof.Machine
end

