-- ==== Sys2Proof/Machine/State.lean ====
section
/-! DEFINITION. The state of the machine: every piece 10_state.md and 20_memory.md name, and the machine after reset
(10_state.md R41). Plain data. -/

namespace Sys2Proof.Machine

/-- The eight general registers (R20). The 8-bit names are halves of these (R22). -/
structure Regs where
  ax : Word
  bx : Word
  cx : Word
  dx : Word
  si : Word
  di : Word
  bp : Word
  sp : Word
deriving DecidableEq, Repr

/-- The four segment registers (R24). -/
structure Segs where
  cs : Word
  ds : Word
  es : Word
  ss : Word
deriving DecidableEq, Repr

/-- The FlagSet (R26), under the source's own names: CF, ZF, SF, OF, PF, AF, IF. -/
structure Flags where
  carry     : Bool
  zero      : Bool
  sign      : Bool
  overflow  : Bool
  parity    : Bool
  auxiliary : Bool
  interrupt : Bool
deriving DecidableEq, Repr

/-- The PIC registers (R32, R33, R34). -/
structure Pic where
  irr : Byte
  isr : Byte
  imr : Byte
deriving DecidableEq, Repr

/-- The keyboard queue and its status byte (R35, R36). `buf` lists (slot, byte) with slots strictly rising and no entry
for a slot that holds 0x00, its reset value (log entry 7). -/
structure Keyboard where
  buf    : List Host.Cell
  head   : Byte
  tail   : Byte
  status : Byte
deriving DecidableEq, Repr

/-- The kinds of fatal fault (R39, R206). -/
inductive FaultKind where
  | memoryFault
  | unsupportedEncoding
  | unrecognizedOpcode
deriving DecidableEq, Repr

/-- The diagnostic of the fatal fault that halted the engine (R39, R201). `addr` is the faulting physical address of a
MemoryFault, up to 0x10FFEF and so not a 16-bit word (R51). -/
structure Diag where
  kind   : FaultKind
  opcode : Byte
  cs     : Word
  ip     : Word
  addr   : Option Nat
deriving DecidableEq, Repr

/-- The CPU session (10_state.md). `mem` lists (address, byte) with addresses strictly rising and no entry equal to what
an unlisted address reads as (log entry 6). `cfg` is the model's own field: the named parameters (00_scope.md R7),
which the model takes as an argument and no operation writes (log entry 2). -/
structure State where
  regs            : Regs
  segs            : Segs
  ip              : Word
  flags           : Flags
  pic             : Pic
  kbd             : Keyboard
  running         : Bool
  lastInstruction : Byte
  diag            : Option Diag
  mem             : List Host.Cell
  cfg             : Config
deriving DecidableEq, Repr

/-- Reasons for a step to stop outside the machine: there are none. The spec's fatal faults have an effect, a Halted
state with its diagnostic (60_exceptions.md R201), in which later steps are no-ops (30_encoding.md R80), so they are
next states of this model and nothing raises a `Fault` (safe: no behaviour is cut off; log entry 1). -/
inductive Fault where
deriving DecidableEq, Repr

/-- Reasons to refuse an instruction. -/
inductive Refusal where
  /-- Raised by an arm of `exec` whose instruction has no meaning yet (safe: nothing is claimed of it). No arm is. -/
  | notModelled (mnemonic : String)
deriving DecidableEq, Repr

/-- The machine right after reset (R41, 70_reset_and_hazards.md R240): nothing is listed in memory, because an unlisted
address reads as its reset contents. -/
def State.reset : State where
  regs := { ax := 0, bx := 0, cx := 0, dx := 0, si := 0, di := 0, bp := 0, sp := 0x7000 }
  segs := { cs := 0, ds := 0, es := 0, ss := 0 }
  ip := 0x0100
  flags := { carry := false, zero := false, sign := false, overflow := false, parity := false, auxiliary := false,
             interrupt := true }
  pic := { irr := 0x00, isr := 0x00, imr := 0xFD }
  kbd := { buf := [], head := 0, tail := 0, status := 0x00 }
  running := true
  lastInstruction := 0x00
  diag := none
  mem := []
  cfg := defaultConfig

end Sys2Proof.Machine
end

