-- ==== Sys2Proof/Machine/Flags.lean ====
section
/-! DEFINITION. Every flag computation of the spec (10_state.md R27 to R30, 41_arith.md R113, 44_logic_incdec_mul.md). -/

namespace Sys2Proof.Machine

/-- The XOR of the eight bits: 1 for an odd number of set bits (R27, C3). -/
def xorFold (b : Byte) : Bool :=
  b.getLsbD 0 ^^ b.getLsbD 1 ^^ b.getLsbD 2 ^^ b.getLsbD 3 ^^ b.getLsbD 4 ^^ b.getLsbD 5 ^^ b.getLsbD 6 ^^ b.getLsbD 7

/-- `Parity(b)` (R27): 1 for an even number of set bits; with PARITY_EVEN_IS_ONE = false the plain XOR-fold. -/
def parityOf (c : Config) (b : Byte) : Bool := if c.parityEvenIsOne then !xorFold b else xorFold b

/-- `UpdateFlags(v)` (R28): ZF, SF and PF, nothing else. -/
def updateFlags (c : Config) (v : Word) (f : Flags) : Flags :=
  { f with zero := v == 0, sign := v.getLsbD 15, parity := parityOf c (lowByte v) }

/-- The updater on a byte result (R28): the result is zero-extended, so SF is 0; with BYTE_SF_BIT = 7 SF is bit 7. -/
def updateFlagsByte (c : Config) (r : Byte) (f : Flags) : Flags :=
  let g := updateFlags c (zext16 r) f
  match c.byteSfBit with
  | .bit15 => g
  | .bit7 => { g with sign := r.getLsbD 7 }

/-- CF of an addition: the pre-truncation sum exceeds 0xFFFF (R113). -/
def addCarry (a b : Word) : Bool := decide (a.toNat + b.toNat > 0xFFFF)

/-- CF of a subtraction or compare: `a < b` unsigned (R113). -/
def subBorrow (a b : Word) : Bool := decide (a.toNat < b.toNat)

/-- CF, then ZF, SF and PF, of `a + b` (R113, R114). -/
def addFlags (c : Config) (a b : Word) (f : Flags) : Flags := updateFlags c (a + b) { f with carry := addCarry a b }

/-- CF, then ZF, SF and PF, of `a - b` (R113, R114). -/
def subFlags (c : Config) (a b : Word) (f : Flags) : Flags := updateFlags c (a - b) { f with carry := subBorrow a b }

/-- CF, then ZF, SF and PF, of the byte compare `a - b` (R130). -/
def cmpByteFlags (c : Config) (a b : Byte) (f : Flags) : Flags :=
  updateFlagsByte c (a - b) { f with carry := decide (a.toNat < b.toNat) }

/-- The product of two bytes, which fits 16 bits (R174). -/
def byteProduct (a b : Byte) : Word := BitVec.ofNat 16 (a.toNat * b.toNat)

/-- CF (the product overflows into the high byte), then ZF, SF and PF, of a product (R174, R175). -/
def mulFlags (c : Config) (p : Word) (f : Flags) : Flags := updateFlags c p { f with carry := decide (p.toNat > 0xFF) }

/-- One flag at bit position `k` of a word. -/
def flagBit (b : Bool) (k : Nat) : Word := if b then (1 : Word) <<< k else 0

/-- `PackFlags()` (R29). -/
def packFlags (f : Flags) : Word :=
  flagBit f.carry 0 ||| flagBit f.zero 1 ||| flagBit f.sign 2 ||| flagBit f.overflow 3 ||| flagBit f.parity 4 |||
    flagBit f.auxiliary 5 ||| flagBit f.interrupt 6

/-- `UnpackFlags(w)` (R30): bits 15:7 are ignored. -/
def unpackFlags (w : Word) : Flags where
  carry := w.getLsbD 0
  zero := w.getLsbD 1
  sign := w.getLsbD 2
  overflow := w.getLsbD 3
  parity := w.getLsbD 4
  auxiliary := w.getLsbD 5
  interrupt := w.getLsbD 6

end Sys2Proof.Machine
end

