-- ==== Sys2Proof/Syntax.lean ====
section
/-! DEFINITION. The instructions: one constructor per row of spec/opcode_table.json (30_encoding.md R84). -/

namespace Sys2Proof

/-- The 8-bit register names (10_state.md R22), in the order of R23. -/
inductive Reg8 where
  | al | cl | dl | bl | ah | ch | dh | bh
deriving DecidableEq, Repr

/-- The eight general registers (10_state.md R20), in the order of R23. -/
inductive Reg16 where
  | ax | cx | dx | bx | sp | bp | si | di
deriving DecidableEq, Repr

/-- The four segment registers (10_state.md R24). -/
inductive SegReg where
  | cs | ds | es | ss
deriving DecidableEq, Repr

/-- The 55 instruction forms. `d` is disp16, `a` addr16, `rel` a relative displacement, `p` a port, `n` a vector. -/
inductive Instr where
  -- 40_mov.md
  | movR8Imm8 (r : Reg8) (imm : Byte)
  | movR16Imm16 (r : Reg16) (imm : Word)
  | movDsAx
  | movEsAx
  | movSsAx
  | movD16Ax (d : Word)
  | movAxD16 (d : Word)
  | movAlA16 (a : Word)
  | movAxA16 (a : Word)
  | movByteD16Imm8 (d : Word) (imm : Byte)
  | movWordD16Imm16 (d : Word) (imm : Word)
  | movWordSiImm16 (imm : Word)
  -- 41_arith.md
  | addAxBx
  | addD16Ax (d : Word)
  | addAxD16 (d : Word)
  | addAxSi
  | addAxImm16 (imm : Word)
  | subAxBx
  | subAxD16 (d : Word)
  | subAxImm16 (imm : Word)
  | cmpAxBx
  | cmpAxD16 (d : Word)
  | cmpAlImm8 (imm : Byte)
  /-- 0x83: `m` is the ModRM byte, which only has to match CMP83_MATCH (R131; log entry 13). -/
  | cmpAxImm8 (m : Byte) (imm : Byte)
  -- 42_control.md
  | jc (rel : Byte)
  | jnc (rel : Byte)
  | je (rel : Byte)
  | jne (rel : Byte)
  | ja (rel : Byte)
  | jmpRel16 (rel : Word)
  | jmpRel8 (rel : Byte)
  | callRel16 (rel : Word)
  | ret
  -- 43_stack_string.md
  | pushAx
  | popAx
  | pushCs
  | popDs
  | popEs
  | lodsb
  | stosb
  -- 44_logic_incdec_mul.md
  | xorAxAx
  | xorBxBx
  | incByteD16 (d : Word)
  | decByteD16 (d : Word)
  | mulAl
  | mulByteBx
  -- 45_io.md
  | inAlImm8 (p : Byte)
  | inAxImm8 (p : Byte)
  | outImm8Al (p : Byte)
  | outImm8Ax (p : Byte)
  -- 46_system.md
  | intImm8 (n : Byte)
  | iret
  | cli
  | sti
  | hlt
deriving DecidableEq, Repr

end Sys2Proof
end

