-- ==== Sys2Proof/Machine/Ops.lean ====
section
/-! DEFINITION. The named operations over memory, stack and registers (20_memory.md), raising a fatal fault
(60_exceptions.md R201), entering an interrupt (R211, R212) and returning from one (46_system.md R191).

An operation that can fault answers `Except State _`: `.error h` is the Halted state `h` in which the fault leaves the
machine. It takes `opip`, the opcode address that the diagnostic reports. -/

namespace Sys2Proof.Machine

/-! ## Sparse byte stores -/

/-- The byte at `k`, `dflt k` where `k` is not listed. -/
def cellGet (dflt : Nat → Byte) (k : Nat) : List Host.Cell → Byte
  | [] => dflt k
  | c :: cs => if c.1 = k then c.2 else cellGet dflt k cs

/-- Insert an entry before the first greater address. -/
def cellInsert (k : Nat) (v : Byte) : List Host.Cell → List Host.Cell
  | [] => [(k, v)]
  | c :: cs => if k < c.1 then (k, v) :: c :: cs else c :: cellInsert k v cs

/-- Store `v` at `k`, keeping the canonical form: no entry where `v` is what an unlisted address reads as. -/
def cellSet (dflt : Nat → Byte) (k : Nat) (v : Byte) (cs : List Host.Cell) : List Host.Cell :=
  let rest := cs.filter fun c => c.1 != k
  if v = dflt k then rest else cellInsert k v rest

/-- The canonical form: addresses strictly rising and below `bound`, no entry equal to the default. -/
def cellsWf (dflt : Nat → Byte) (bound : Nat) : List Host.Cell → Bool
  | [] => true
  | c :: cs => decide (c.1 < bound) && c.2 != dflt c.1 && cs.all (fun d => decide (c.1 < d.1)) && cellsWf dflt bound cs

/-! ## Physical memory -/

/-- What an unlisted address reads as: the reset contents (20_memory.md R62, R63, R65). -/
def unlisted (c : Config) (a : Nat) : Byte :=
  if a < 0x400 then (if a % 4 = 3 then 0x01 else 0x00)
  else if 0xB8000 ≤ a ∧ a < 0xB8FA0 then (if a % 2 = 0 then 0x20 else c.videoFillAttr)
  else 0x00

/-- Memory holds addresses below 0x100000 in canonical form. -/
def Memory.wf (c : Config) (m : List Host.Cell) : Bool := cellsWf (unlisted c) 0x100000 m

/-- `Translate(seg, off)` = (seg << 4) + off, never reduced modulo 2^20 (R51, R52). -/
def translate (seg off : Word) : Nat := 16 * seg.toNat + off.toNat

/-- The bounds check of an access of `n` bytes at `a` (R55). -/
def inBounds (a n : Nat) : Bool := decide (a + n ≤ 0x100000)

/-- `mem[a]`. -/
def State.byteAt (s : State) (a : Nat) : Byte := cellGet (unlisted s.cfg) a s.mem

/-- `mem[a] | mem[a+1] << 8` (R53). -/
def State.wordAt (s : State) (a : Nat) : Word := joinBytes (s.byteAt a) (s.byteAt (a + 1))

/-- `mem[a] <- v`. -/
def State.setByte (s : State) (a : Nat) (v : Byte) : State := { s with mem := cellSet (unlisted s.cfg) a v s.mem }

/-- `mem[a] <- v[7:0]`, `mem[a+1] <- v[15:8]` (R54). -/
def State.setWord (s : State) (a : Nat) (v : Word) : State := (s.setByte a (lowByte v)).setByte (a + 1) (highByte v)

/-! ## Registers -/

/-- The 16-bit register named `r`. -/
def State.reg (s : State) : Reg16 → Word
  | .ax => s.regs.ax
  | .cx => s.regs.cx
  | .dx => s.regs.dx
  | .bx => s.regs.bx
  | .sp => s.regs.sp
  | .bp => s.regs.bp
  | .si => s.regs.si
  | .di => s.regs.di

def State.setReg (s : State) (r : Reg16) (v : Word) : State :=
  { s with regs := match r with
    | .ax => { s.regs with ax := v }
    | .cx => { s.regs with cx := v }
    | .dx => { s.regs with dx := v }
    | .bx => { s.regs with bx := v }
    | .sp => { s.regs with sp := v }
    | .bp => { s.regs with bp := v }
    | .si => { s.regs with si := v }
    | .di => { s.regs with di := v } }

/-- The segment register named `r`. -/
def State.seg (s : State) : SegReg → Word
  | .cs => s.segs.cs
  | .ds => s.segs.ds
  | .es => s.segs.es
  | .ss => s.segs.ss

def State.setSeg (s : State) (r : SegReg) (v : Word) : State :=
  { s with segs := match r with
    | .cs => { s.segs with cs := v }
    | .ds => { s.segs with ds := v }
    | .es => { s.segs with es := v }
    | .ss => { s.segs with ss := v } }

def State.setIp (s : State) (v : Word) : State := { s with ip := v }

def State.setFlags (s : State) (f : Flags) : State := { s with flags := f }

def State.setPic (s : State) (p : Pic) : State := { s with pic := p }

def State.setKbd (s : State) (k : Keyboard) : State := { s with kbd := k }

/-- The opcode address inside a handler, which starts with IP = opip + 1 (40_mov.md, header; R80; log entry 5). -/
def State.opip (s : State) : Word := s.ip - 1

/-- `pc <- opip + len`, as an instruction of `len` bytes completes. -/
def State.advance (s : State) (len : Word) : State := s.setIp (s.opip + len)

/-! ## Fatal faults (60_exceptions.md R201) -/

/-- `raise F(info)`: the engine halts with its diagnostic; nothing else changes. -/
def State.raise (s : State) (kind : FaultKind) (addr : Option Nat) (opip : Word) : State :=
  { s with
    running := false
    diag := some { kind := kind, opcode := s.lastInstruction, cs := s.segs.cs, ip := opip, addr := addr } }

/-- `raise MemoryFault(addr, len)`; the record holds the address (R39, R203). -/
def State.memoryFault (s : State) (addr : Nat) (opip : Word) : State := s.raise .memoryFault (some addr) opip

/-- How an instruction's meaning ends: either way in a next state, Halted with a diagnostic if a fault was raised. -/
def finish (r : Except State State) : Host.Outcome State Fault Refusal :=
  match r with
  | .ok s => .next s
  | .error h => .next h

/-! ## Bounds-checked accesses (20_memory.md R53 to R55) -/

/-- `MemRead(a, 1)`. -/
def read8 (opip : Word) (a : Nat) (s : State) : Except State Byte :=
  if inBounds a 1 then .ok (s.byteAt a) else .error (s.memoryFault a opip)

/-- `MemRead(a, 2)`. -/
def read16 (opip : Word) (a : Nat) (s : State) : Except State Word :=
  if inBounds a 2 then .ok (s.wordAt a) else .error (s.memoryFault a opip)

/-- `MemWrite(a, 1, v)`. -/
def write8 (opip : Word) (a : Nat) (v : Byte) (s : State) : Except State State :=
  if inBounds a 1 then .ok (s.setByte a v) else .error (s.memoryFault a opip)

/-- `MemWrite(a, 2, v)`. -/
def write16 (opip : Word) (a : Nat) (v : Word) (s : State) : Except State State :=
  if inBounds a 2 then .ok (s.setWord a v) else .error (s.memoryFault a opip)

/-! ## The stack (R57, R58) -/

/-- The physical address of SS:SP. -/
def State.stackTop (s : State) : Nat := translate s.segs.ss s.regs.sp

/-- `Push(v)`: SP is decremented first, and stays so if the write faults. -/
def push (opip : Word) (v : Word) (s : State) : Except State State :=
  let s1 := s.setReg .sp (s.regs.sp - 2)
  write16 opip s1.stackTop v s1

/-- `Pop()`: SP is incremented after the read, and not at all if the read faults. -/
def pop (opip : Word) (s : State) : Except State (Word × State) := do
  let v ← read16 opip s.stackTop s
  .ok (v, s.setReg .sp (s.regs.sp + 2))

/-! ## Interrupts -/

/-- Bit 1 of IRR, ISR and IMR: IRQ1, the keyboard (R13, R32). -/
def irq1 : Byte := 0x02

/-- The physical address of IVT entry `n` (R62). -/
def ivtEntry (n : Byte) : Nat := 4 * n.toNat

/-- `EnterInterrupt(n, ret)` (R212): FLAGS, CS and the return address are pushed in that order, CS:IP is loaded from IVT
entry `n` after the pushes, IF is cleared and ISR bit 1 set. -/
def enterInterrupt (opip : Word) (n : Byte) (ret : Word) (s : State) : Except State State := do
  let s1 ← push opip (packFlags s.flags) s
  let s2 ← push opip s1.segs.cs s1
  let s3 ← push opip ret s2
  let newip ← read16 opip (ivtEntry n) s3
  let newcs ← read16 opip (ivtEntry n + 2) s3
  .ok ((((s3.setIp newip).setSeg .cs newcs).setFlags { s3.flags with interrupt := false }).setPic
    { s3.pic with isr := s3.pic.isr ||| irq1 })

/-- The return from an interrupt (R191): IP, CS and FLAGS are popped in that order, all seven flags are restored and
ISR is cleared. Nothing but SP is written before the third pop has succeeded. -/
def interruptReturn (opip : Word) (s : State) : Except State State := do
  let (ip, s1) ← pop opip s
  let (cs, s2) ← pop opip s1
  let (fl, s3) ← pop opip s2
  .ok ((((s3.setIp ip).setSeg .cs cs).setFlags (unpackFlags fl)).setPic { s3.pic with isr := 0x00 })

/-- The poll of the keyboard queue (R211): a non-empty queue sets IRR bit 1 and status bit 0. -/
def pollKeyboard (s : State) : State :=
  if s.kbd.head != s.kbd.tail then
    (s.setPic { s.pic with irr := s.pic.irr ||| irq1 }).setKbd { s.kbd with status := s.kbd.status ||| 0x01 }
  else s

/-- IRQ1 is requested, unmasked and enabled (R211). ISR is not consulted. -/
def irq1Taken (s : State) : Bool := s.flags.interrupt && (s.pic.irr &&& ~~~s.pic.imr &&& irq1) != 0

/-- `ServiceInterrupts()` (R211): the poll, then, if IRQ1 is taken, vector 9 with the address of the instruction not yet
fetched as return address, and only then IRR bit 1 is cleared. -/
def serviceInterrupts (s : State) : Except State State :=
  let s1 := pollKeyboard s
  if irq1Taken s1 then do
    let s2 ← enterInterrupt s1.ip 9 s1.ip s1
    .ok (s2.setPic { s2.pic with irr := s2.pic.irr &&& ~~~irq1 })
  else .ok s1

end Sys2Proof.Machine
end

