-- ==== Sys2Proof/Machine/Operands.lean ====
section
/-! DEFINITION. Operand forms: the 8-bit register names (10_state.md R22) and the effective addresses (40_mov.md R112). -/

namespace Sys2Proof.Machine

/-- The 8-bit register named `r`: half of AX, CX, DX or BX (R22). -/
def State.reg8 (s : State) : Reg8 → Byte
  | .al => lowByte s.regs.ax
  | .cl => lowByte s.regs.cx
  | .dl => lowByte s.regs.dx
  | .bl => lowByte s.regs.bx
  | .ah => highByte s.regs.ax
  | .ch => highByte s.regs.cx
  | .dh => highByte s.regs.dx
  | .bh => highByte s.regs.bx

/-- A write to an 8-bit name leaves the other half unchanged (R22). -/
def State.setReg8 (s : State) (r : Reg8) (v : Byte) : State :=
  match r with
  | .al => s.setReg .ax (joinBytes v (highByte s.regs.ax))
  | .cl => s.setReg .cx (joinBytes v (highByte s.regs.cx))
  | .dl => s.setReg .dx (joinBytes v (highByte s.regs.dx))
  | .bl => s.setReg .bx (joinBytes v (highByte s.regs.bx))
  | .ah => s.setReg .ax (joinBytes (lowByte s.regs.ax) v)
  | .ch => s.setReg .cx (joinBytes (lowByte s.regs.cx) v)
  | .dh => s.setReg .dx (joinBytes (lowByte s.regs.dx) v)
  | .bh => s.setReg .bx (joinBytes (lowByte s.regs.bx) v)

/-- The memory-operand modes of R112 other than the stack, which is `State.stackTop`. -/
inductive MemOperand where
  | direct (off : Word)
  | siRelative
  | bxRelative
  | stringSource
  | stringDestination
deriving DecidableEq, Repr

/-- The physical address of a memory operand (R112). -/
def State.ea (s : State) : MemOperand → Nat
  | .direct off => translate s.segs.ds off
  | .siRelative => translate s.segs.ds s.regs.si
  | .bxRelative => translate s.segs.ds s.regs.bx
  | .stringSource => translate s.segs.ds s.regs.si
  | .stringDestination => translate s.segs.es s.regs.di

/-- Read the byte operand `m`. -/
def readOperand8 (m : MemOperand) (s : State) : Except State Byte := read8 s.opip (s.ea m) s

/-- Read the word operand `m`. -/
def readOperand16 (m : MemOperand) (s : State) : Except State Word := read16 s.opip (s.ea m) s

/-- Write the byte operand `m`. -/
def writeOperand8 (m : MemOperand) (v : Byte) (s : State) : Except State State := write8 s.opip (s.ea m) v s

/-- Write the word operand `m`. -/
def writeOperand16 (m : MemOperand) (v : Word) (s : State) : Except State State := write16 s.opip (s.ea m) v s

end Sys2Proof.Machine
end

