-- ==== Sys2Proof/Machine/Arith.lean ====
section
/-! DEFINITION. ADD, SUB and CMP (41_arith.md R113 to R131). -/

namespace Sys2Proof.Machine

/-- `AX <- AX + b`, CF, ZF, SF, PF, then IP past `len` bytes (R113, R114). -/
def addToAx (b : Word) (len : Word) (s : State) : State :=
  ((s.setReg .ax (s.regs.ax + b)).setFlags (addFlags s.cfg s.regs.ax b s.flags)).advance len

/-- `AX <- AX - b`, CF from the values before the write, ZF, SF, PF, then IP (R113, R114). -/
def subFromAx (b : Word) (len : Word) (s : State) : State :=
  ((s.setReg .ax (s.regs.ax - b)).setFlags (subFlags s.cfg s.regs.ax b s.flags)).advance len

/-- The flags of `AX - b`, nothing stored, then IP (R113, R114). -/
def compareAx (b : Word) (len : Word) (s : State) : State :=
  (s.setFlags (subFlags s.cfg s.regs.ax b s.flags)).advance len

/-- R120. -/
def execAddAxBx (s : State) : Host.Outcome State Fault Refusal := .next (addToAx s.regs.bx 2 s)

/-- R121: the sum goes to memory, AX is unchanged; the read comes before the write. -/
def execAddD16Ax (d : Word) (s : State) : Host.Outcome State Fault Refusal :=
  finish do
    let v ← readOperand16 (.direct d) s
    let s1 ← writeOperand16 (.direct d) (v + s.regs.ax) s
    .ok ((s1.setFlags (addFlags s.cfg v s.regs.ax s.flags)).advance 4)

/-- R122. -/
def execAddAxD16 (d : Word) (s : State) : Host.Outcome State Fault Refusal :=
  finish do
    let v ← readOperand16 (.direct d) s
    .ok (addToAx v 4 s)

/-- R123. -/
def execAddAxSi (s : State) : Host.Outcome State Fault Refusal :=
  finish do
    let v ← readOperand16 .siRelative s
    .ok (addToAx v 2 s)

/-- R124. -/
def execAddAxImm16 (imm : Word) (s : State) : Host.Outcome State Fault Refusal := .next (addToAx imm 3 s)

/-- R125. -/
def execSubAxBx (s : State) : Host.Outcome State Fault Refusal := .next (subFromAx s.regs.bx 2 s)

/-- R126. -/
def execSubAxD16 (d : Word) (s : State) : Host.Outcome State Fault Refusal :=
  finish do
    let v ← readOperand16 (.direct d) s
    .ok (subFromAx v 4 s)

/-- R127. -/
def execSubAxImm16 (imm : Word) (s : State) : Host.Outcome State Fault Refusal := .next (subFromAx imm 3 s)

/-- R128. -/
def execCmpAxBx (s : State) : Host.Outcome State Fault Refusal := .next (compareAx s.regs.bx 2 s)

/-- R129. -/
def execCmpAxD16 (d : Word) (s : State) : Host.Outcome State Fault Refusal :=
  finish do
    let v ← readOperand16 (.direct d) s
    .ok (compareAx v 4 s)

/-- R130: a byte compare of AL. -/
def execCmpAlImm8 (imm : Byte) (s : State) : Host.Outcome State Fault Refusal :=
  .next ((s.setFlags (cmpByteFlags s.cfg (s.reg8 .al) imm s.flags)).advance 2)

/-- R131: always AX, against the sign-extended byte, whatever the ModRM byte. -/
def execCmpAxImm8 (_m : Byte) (imm : Byte) (s : State) : Host.Outcome State Fault Refusal :=
  .next (compareAx (sext16 imm) 3 s)

end Sys2Proof.Machine
end

