-- ==== Sys2Proof/Machine/Control.lean ====
section
/-! DEFINITION. Jumps, CALL and RET (42_control.md R132 to R148). -/

namespace Sys2Proof.Machine

/-- A two-byte conditional jump: the displacement counts from the next instruction, modulo 65536 (R132). -/
def jumpShortIf (taken : Bool) (rel : Byte) (s : State) : State :=
  s.setIp (if taken then s.opip + 2 + sext16 rel else s.opip + 2)

/-- R140. -/
def execJc (rel : Byte) (s : State) : Host.Outcome State Fault Refusal := .next (jumpShortIf s.flags.carry rel s)

/-- R141. -/
def execJnc (rel : Byte) (s : State) : Host.Outcome State Fault Refusal := .next (jumpShortIf (!s.flags.carry) rel s)

/-- R142. -/
def execJe (rel : Byte) (s : State) : Host.Outcome State Fault Refusal := .next (jumpShortIf s.flags.zero rel s)

/-- R143. -/
def execJne (rel : Byte) (s : State) : Host.Outcome State Fault Refusal := .next (jumpShortIf (!s.flags.zero) rel s)

/-- R144. -/
def execJa (rel : Byte) (s : State) : Host.Outcome State Fault Refusal :=
  .next (jumpShortIf (!s.flags.carry && !s.flags.zero) rel s)

/-- What the displacement of `JMP rel16` counts from (R132, R145). -/
def jmpNearBase (s : State) : Word :=
  match s.cfg.jmpNearBase with
  | .opcodeAddress => s.opip
  | .nextInstruction => s.opip + 3

/-- R145. -/
def execJmpRel16 (rel : Word) (s : State) : Host.Outcome State Fault Refusal := .next (s.setIp (jmpNearBase s + rel))

/-- R146. -/
def execJmpRel8 (rel : Byte) (s : State) : Host.Outcome State Fault Refusal := .next (jumpShortIf true rel s)

/-- R147: the return address is opip + 3, and the displacement counts from it. -/
def execCallRel16 (rel : Word) (s : State) : Host.Outcome State Fault Refusal :=
  finish do
    let s1 ← push s.opip (s.opip + 3) s
    .ok (s1.setIp (s.opip + 3 + rel))

/-- R148. -/
def execRet (s : State) : Host.Outcome State Fault Refusal :=
  finish do
    let (v, s1) ← pop s.opip s
    .ok (s1.setIp v)

end Sys2Proof.Machine
end

