-- ==== Sys2Proof/Machine/Ports.lean ====
section
/-! DEFINITION. The keyboard queue and the port multiplexer (60_exceptions.md R222 to R228). -/

namespace Sys2Proof.Machine

/-- What an unlisted queue slot holds: its reset value (10_state.md R35). -/
def kbdSlotReset (_ : Nat) : Byte := 0x00

/-- The queue's slots are 0..255, in canonical form. -/
def Keyboard.wf (k : Keyboard) : Bool := cellsWf kbdSlotReset 256 k.buf

/-- `kbd_buf[i]`. -/
def Keyboard.slot (k : Keyboard) (i : Byte) : Byte := cellGet kbdSlotReset i.toNat k.buf

/-- `kbd_buf[i] <- v`. -/
def Keyboard.setSlot (k : Keyboard) (i v : Byte) : Keyboard := { k with buf := cellSet kbdSlotReset i.toNat v k.buf }

/-- `Empty()` (R223). -/
def Keyboard.isEmpty (k : Keyboard) : Bool := k.head == k.tail

/-- Full: `(kbd_tail + 1) mod 256 == kbd_head` (R35). -/
def Keyboard.isFull (k : Keyboard) : Bool := k.tail + 1 == k.head

/-- `Count()` (R223): the byte difference wraps modulo 256. -/
def Keyboard.count (k : Keyboard) : Nat := (k.tail - k.head).toNat

/-- `Dequeue()` (R223): the byte at the head, and the queue with its head advanced. -/
def Keyboard.dequeue (k : Keyboard) : Byte × Keyboard := (k.slot k.head, { k with head := k.head + 1 })

/-- `Read60()` (R224): pops a byte if there is one, and clears status bit 0 when that empties the queue. -/
def Keyboard.read60 (k : Keyboard) : Byte × Keyboard :=
  if k.isEmpty then (0x00, k)
  else
    let (b, k1) := k.dequeue
    (b, if k1.isEmpty then { k1 with status := k1.status &&& ~~~0x01 } else k1)

/-- `enqueue(b)` on the queue (R222): NAIVE_TAIL has no full check; DROP_OLDEST first advances the head of a full
queue. -/
def Keyboard.enqueue (mode : KbdOverflow) (b : Byte) (k : Keyboard) : Keyboard :=
  let k1 := match mode with
    | .naiveTail => k
    | .dropOldest => if k.isFull then { k with head := k.head + 1 } else k
  { k1.setSlot k1.tail b with tail := k1.tail + 1 }

/-- `PortRead(p)` (R226). An unmapped port, 0x20 among them, reads 0; its warning is no state (R228). -/
def portRead (p : Byte) (s : State) : Byte × State :=
  if p = 0x60 then (s.kbd.read60.1, s.setKbd s.kbd.read60.2)
  else if p = 0x64 then (s.kbd.status, s)
  else if p = 0x21 then (s.pic.imr, s)
  else (0x00, s)

/-- `PortWrite(p, v)` (R227). Port 0x20 answers to the EOI value 0x20 only; any other port ignores the write. -/
def portWrite (p v : Byte) (s : State) : State :=
  if p = 0x21 then s.setPic { s.pic with imr := v }
  else if p = 0x20 then (if v = 0x20 then s.setPic { s.pic with isr := 0x00 } else s)
  else s

end Sys2Proof.Machine
end

