-- ==== Sys2Proof/Machine/Io.lean ====
section
/-! DEFINITION. Port I/O instructions (45_io.md R180 to R183). None faults. -/

namespace Sys2Proof.Machine

/-- R180: AH is unchanged. -/
def execInAlImm8 (p : Byte) (s : State) : Host.Outcome State Fault Refusal :=
  let (v, s1) := portRead p s
  .next ((s1.setReg8 .al v).advance 2)

/-- R181: one port read, zero-extended. -/
def execInAxImm8 (p : Byte) (s : State) : Host.Outcome State Fault Refusal :=
  let (v, s1) := portRead p s
  .next ((s1.setReg .ax (zext16 v)).advance 2)

/-- R182. -/
def execOutImm8Al (p : Byte) (s : State) : Host.Outcome State Fault Refusal :=
  .next ((portWrite p (s.reg8 .al) s).advance 2)

/-- R183: one port write, of the low byte of AX. -/
def execOutImm8Ax (p : Byte) (s : State) : Host.Outcome State Fault Refusal :=
  .next ((portWrite p (lowByte s.regs.ax) s).advance 2)

end Sys2Proof.Machine
end

