-- ==== Sys2Proof/Machine/Logic.lean ====
section
/-! DEFINITION. XOR, INC, DEC and MUL (44_logic_incdec_mul.md R170 to R175). -/

namespace Sys2Proof.Machine

/-- Clear a register, `UpdateFlags(0)`, IP past two bytes; CF is unchanged (R170). -/
def clearRegister (r : Reg16) (s : State) : State :=
  ((s.setReg r 0).setFlags (updateFlags s.cfg 0 s.flags)).advance 2

/-- R170. -/
def execXorAxAx (s : State) : Host.Outcome State Fault Refusal := .next (clearRegister .ax s)

/-- R171. -/
def execXorBxBx (s : State) : Host.Outcome State Fault Refusal := .next (clearRegister .bx s)

/-- Read the direct byte, add `delta` modulo 256, write it back, ZF, SF and PF of the byte; CF is unchanged (R172). -/
def bumpByte (delta : Byte) (d : Word) (s : State) : Except State State := do
  let v ← readOperand8 (.direct d) s
  let s1 ← writeOperand8 (.direct d) (v + delta) s
  .ok ((s1.setFlags (updateFlagsByte s.cfg (v + delta) s.flags)).advance 4)

/-- R172. -/
def execIncByteD16 (d : Word) (s : State) : Host.Outcome State Fault Refusal := finish (bumpByte 1 d s)

/-- R173: adding 0xFF is subtracting 1 modulo 256. -/
def execDecByteD16 (d : Word) (s : State) : Host.Outcome State Fault Refusal := finish (bumpByte 0xFF d s)

/-- `AX <- AL * b`, CF, ZF, SF, PF, IP past two bytes (R174, R175). -/
def mulAlBy (b : Byte) (s : State) : State :=
  let p := byteProduct (s.reg8 .al) b
  ((s.setReg .ax p).setFlags (mulFlags s.cfg p s.flags)).advance 2

/-- R174. -/
def execMulAl (s : State) : Host.Outcome State Fault Refusal := .next (mulAlBy (s.reg8 .al) s)

/-- R175. -/
def execMulByteBx (s : State) : Host.Outcome State Fault Refusal :=
  finish do
    let b ← readOperand8 .bxRelative s
    .ok (mulAlBy b s)

end Sys2Proof.Machine
end

