-- ==== Sys2Proof/Machine/Mov.lean ====
section
/-! DEFINITION. Data transfer (40_mov.md R100 to R111). A meaning starts after the opcode and its fields are fetched, with
IP = opip + 1; a fault leaves IP there (60_exceptions.md R202). -/

namespace Sys2Proof.Machine

/-- R100. -/
def execMovR8Imm8 (r : Reg8) (imm : Byte) (s : State) : Host.Outcome State Fault Refusal :=
  .next ((s.setReg8 r imm).advance 2)

/-- R101: `UpdateFlags(imm)`. -/
def execMovR16Imm16 (r : Reg16) (imm : Word) (s : State) : Host.Outcome State Fault Refusal :=
  .next (((s.setReg r imm).setFlags (updateFlags s.cfg imm s.flags)).advance 3)

/-- R102. -/
def execMovDsAx (s : State) : Host.Outcome State Fault Refusal := .next ((s.setSeg .ds s.regs.ax).advance 2)

/-- R103. -/
def execMovEsAx (s : State) : Host.Outcome State Fault Refusal := .next ((s.setSeg .es s.regs.ax).advance 2)

/-- R104. -/
def execMovSsAx (s : State) : Host.Outcome State Fault Refusal := .next ((s.setSeg .ss s.regs.ax).advance 2)

/-- R105. -/
def execMovD16Ax (d : Word) (s : State) : Host.Outcome State Fault Refusal :=
  finish do
    let s1 ← writeOperand16 (.direct d) s.regs.ax s
    .ok (s1.advance 4)

/-- R106: 0x8B updates the flags. -/
def execMovAxD16 (d : Word) (s : State) : Host.Outcome State Fault Refusal :=
  finish do
    let v ← readOperand16 (.direct d) s
    .ok (((s.setReg .ax v).setFlags (updateFlags s.cfg v s.flags)).advance 4)

/-- R107. -/
def execMovAlA16 (a : Word) (s : State) : Host.Outcome State Fault Refusal :=
  finish do
    let v ← readOperand8 (.direct a) s
    .ok ((s.setReg8 .al v).advance 3)

/-- R108: no flags, unlike 0x8B. -/
def execMovAxA16 (a : Word) (s : State) : Host.Outcome State Fault Refusal :=
  finish do
    let v ← readOperand16 (.direct a) s
    .ok ((s.setReg .ax v).advance 3)

/-- R109: a plain byte write; the graphics redirect is not in the core (D19). -/
def execMovByteD16Imm8 (d : Word) (imm : Byte) (s : State) : Host.Outcome State Fault Refusal :=
  finish do
    let s1 ← writeOperand8 (.direct d) imm s
    .ok (s1.advance 5)

/-- R110. -/
def execMovWordD16Imm16 (d imm : Word) (s : State) : Host.Outcome State Fault Refusal :=
  finish do
    let s1 ← writeOperand16 (.direct d) imm s
    .ok (s1.advance 6)

/-- R111. -/
def execMovWordSiImm16 (imm : Word) (s : State) : Host.Outcome State Fault Refusal :=
  finish do
    let s1 ← writeOperand16 .siRelative imm s
    .ok (s1.advance 4)

end Sys2Proof.Machine
end

