-- ==== Sys2Proof/Machine/Stack.lean ====
section
/-! DEFINITION. Stack and string instructions (43_stack_string.md R160 to R166). -/

namespace Sys2Proof.Machine

/-- R160. -/
def execPushAx (s : State) : Host.Outcome State Fault Refusal :=
  finish do
    let s1 ← push s.opip s.regs.ax s
    .ok (s1.advance 1)

/-- R161. -/
def execPopAx (s : State) : Host.Outcome State Fault Refusal :=
  finish do
    let (v, s1) ← pop s.opip s
    .ok ((s1.setReg .ax v).advance 1)

/-- R162. -/
def execPushCs (s : State) : Host.Outcome State Fault Refusal :=
  finish do
    let s1 ← push s.opip s.segs.cs s
    .ok (s1.advance 1)

/-- R163. -/
def execPopDs (s : State) : Host.Outcome State Fault Refusal :=
  finish do
    let (v, s1) ← pop s.opip s
    .ok ((s1.setSeg .ds v).advance 1)

/-- R164. -/
def execPopEs (s : State) : Host.Outcome State Fault Refusal :=
  finish do
    let (v, s1) ← pop s.opip s
    .ok ((s1.setSeg .es v).advance 1)

/-- R165: there is no direction flag, SI always rises. -/
def execLodsb (s : State) : Host.Outcome State Fault Refusal :=
  finish do
    let v ← readOperand8 .stringSource s
    .ok (((s.setReg8 .al v).setReg .si (s.regs.si + 1)).advance 1)

/-- R166: DI always rises. -/
def execStosb (s : State) : Host.Outcome State Fault Refusal :=
  finish do
    let s1 ← writeOperand8 .stringDestination (s.reg8 .al) s
    .ok ((s1.setReg .di (s.regs.di + 1)).advance 1)

end Sys2Proof.Machine
end

