-- ==== Sys2Proof/Machine/System.lean ====
section
/-! DEFINITION. INT, IRET, CLI, STI and HLT (46_system.md R190 to R194). None is privileged (60_exceptions.md R229). -/

namespace Sys2Proof.Machine

/-- R190: with IF = 1 the interrupt is entered with return address opip + 2; with IF = 0 only IP moves past it. -/
def execIntImm8 (n : Byte) (s : State) : Host.Outcome State Fault Refusal :=
  if s.flags.interrupt then finish (enterInterrupt s.opip n (s.opip + 2) s) else .next (s.advance 2)

/-- R191. -/
def execIret (s : State) : Host.Outcome State Fault Refusal := finish (interruptReturn s.opip s)

/-- R192. -/
def execCli (s : State) : Host.Outcome State Fault Refusal :=
  .next ((s.setFlags { s.flags with interrupt := false }).advance 1)

/-- R193: no interrupt shadow. -/
def execSti (s : State) : Host.Outcome State Fault Refusal :=
  .next ((s.setFlags { s.flags with interrupt := true }).advance 1)

/-- R194: Halted, not a fault; `diag` is untouched. -/
def execHlt (s : State) : Host.Outcome State Fault Refusal := .next ({ s with running := false }.advance 1)

end Sys2Proof.Machine
end

