-- ==== Sys2Proof/Machine/Dispatch.lean ====
section
/-! DEFINITION. The meaning of each instruction (30_encoding.md R81). -/

namespace Sys2Proof.Machine

/-- Run an instruction whose bytes are fetched, in a state with IP = opip + 1. -/
def exec (i : Instr) (s : State) : Host.Outcome State Fault Refusal :=
  match i with
  -- 40_mov.md
  | .movR8Imm8 r imm => Sys2Proof.Machine.execMovR8Imm8 r imm s
  | .movR16Imm16 r imm => Sys2Proof.Machine.execMovR16Imm16 r imm s
  | .movDsAx => Sys2Proof.Machine.execMovDsAx s
  | .movEsAx => Sys2Proof.Machine.execMovEsAx s
  | .movSsAx => Sys2Proof.Machine.execMovSsAx s
  | .movD16Ax d => Sys2Proof.Machine.execMovD16Ax d s
  | .movAxD16 d => Sys2Proof.Machine.execMovAxD16 d s
  | .movAlA16 a => Sys2Proof.Machine.execMovAlA16 a s
  | .movAxA16 a => Sys2Proof.Machine.execMovAxA16 a s
  | .movByteD16Imm8 d imm => Sys2Proof.Machine.execMovByteD16Imm8 d imm s
  | .movWordD16Imm16 d imm => Sys2Proof.Machine.execMovWordD16Imm16 d imm s
  | .movWordSiImm16 imm => Sys2Proof.Machine.execMovWordSiImm16 imm s
  -- 41_arith.md
  | .addAxBx => Sys2Proof.Machine.execAddAxBx s
  | .addD16Ax d => Sys2Proof.Machine.execAddD16Ax d s
  | .addAxD16 d => Sys2Proof.Machine.execAddAxD16 d s
  | .addAxSi => Sys2Proof.Machine.execAddAxSi s
  | .addAxImm16 imm => Sys2Proof.Machine.execAddAxImm16 imm s
  | .subAxBx => Sys2Proof.Machine.execSubAxBx s
  | .subAxD16 d => Sys2Proof.Machine.execSubAxD16 d s
  | .subAxImm16 imm => Sys2Proof.Machine.execSubAxImm16 imm s
  | .cmpAxBx => Sys2Proof.Machine.execCmpAxBx s
  | .cmpAxD16 d => Sys2Proof.Machine.execCmpAxD16 d s
  | .cmpAlImm8 imm => Sys2Proof.Machine.execCmpAlImm8 imm s
  | .cmpAxImm8 m imm => Sys2Proof.Machine.execCmpAxImm8 m imm s
  -- 42_control.md
  | .jc rel => Sys2Proof.Machine.execJc rel s
  | .jnc rel => Sys2Proof.Machine.execJnc rel s
  | .je rel => Sys2Proof.Machine.execJe rel s
  | .jne rel => Sys2Proof.Machine.execJne rel s
  | .ja rel => Sys2Proof.Machine.execJa rel s
  | .jmpRel16 rel => Sys2Proof.Machine.execJmpRel16 rel s
  | .jmpRel8 rel => Sys2Proof.Machine.execJmpRel8 rel s
  | .callRel16 rel => Sys2Proof.Machine.execCallRel16 rel s
  | .ret => Sys2Proof.Machine.execRet s
  -- 43_stack_string.md
  | .pushAx => Sys2Proof.Machine.execPushAx s
  | .popAx => Sys2Proof.Machine.execPopAx s
  | .pushCs => Sys2Proof.Machine.execPushCs s
  | .popDs => Sys2Proof.Machine.execPopDs s
  | .popEs => Sys2Proof.Machine.execPopEs s
  | .lodsb => Sys2Proof.Machine.execLodsb s
  | .stosb => Sys2Proof.Machine.execStosb s
  -- 44_logic_incdec_mul.md
  | .xorAxAx => Sys2Proof.Machine.execXorAxAx s
  | .xorBxBx => Sys2Proof.Machine.execXorBxBx s
  | .incByteD16 d => Sys2Proof.Machine.execIncByteD16 d s
  | .decByteD16 d => Sys2Proof.Machine.execDecByteD16 d s
  | .mulAl => Sys2Proof.Machine.execMulAl s
  | .mulByteBx => Sys2Proof.Machine.execMulByteBx s
  -- 45_io.md
  | .inAlImm8 p => Sys2Proof.Machine.execInAlImm8 p s
  | .inAxImm8 p => Sys2Proof.Machine.execInAxImm8 p s
  | .outImm8Al p => Sys2Proof.Machine.execOutImm8Al p s
  | .outImm8Ax p => Sys2Proof.Machine.execOutImm8Ax p s
  -- 46_system.md
  | .intImm8 n => Sys2Proof.Machine.execIntImm8 n s
  | .iret => Sys2Proof.Machine.execIret s
  | .cli => Sys2Proof.Machine.execCli s
  | .sti => Sys2Proof.Machine.execSti s
  | .hlt => Sys2Proof.Machine.execHlt s

end Sys2Proof.Machine
end

