-- ==== Sys2Proof/WellFormed.lean ====
section
/-! DEFINITION. Which instructions a machine with parameters `c` has an encoding for. Operand ranges are carried by the
operands' types; what is left to check is `MUL_F6_MODE` (44_logic_incdec_mul.md R174) and `CMP83_MATCH` (41_arith.md
R131). -/

namespace Sys2Proof

/-- In VARIANT_AL_AL every 0xF6 ModRM is `MUL AL`, in VARIANT_AL_MEM_BX every one is `MUL byte [BX]` (R174), so the
other form has no encoding there. 0x83 takes the ModRM bytes that match CMP83_MATCH (R131). -/
def Instr.wellFormed (c : Config) : Instr → Bool
  | .mulAl => c.mulF6Mode != .variantAlMemBx
  | .mulByteBx => c.mulF6Mode != .variantAlAl
  | .cmpAxImm8 m _ => Machine.modrmMatches c.cmp83Match m
  | .movR8Imm8 _ _ => true
  | .movR16Imm16 _ _ => true
  | .movDsAx => true
  | .movEsAx => true
  | .movSsAx => true
  | .movD16Ax _ => true
  | .movAxD16 _ => true
  | .movAlA16 _ => true
  | .movAxA16 _ => true
  | .movByteD16Imm8 _ _ => true
  | .movWordD16Imm16 _ _ => true
  | .movWordSiImm16 _ => true
  | .addAxBx => true
  | .addD16Ax _ => true
  | .addAxD16 _ => true
  | .addAxSi => true
  | .addAxImm16 _ => true
  | .subAxBx => true
  | .subAxD16 _ => true
  | .subAxImm16 _ => true
  | .cmpAxBx => true
  | .cmpAxD16 _ => true
  | .cmpAlImm8 _ => true
  | .jc _ => true
  | .jnc _ => true
  | .je _ => true
  | .jne _ => true
  | .ja _ => true
  | .jmpRel16 _ => true
  | .jmpRel8 _ => true
  | .callRel16 _ => true
  | .ret => true
  | .pushAx => true
  | .popAx => true
  | .pushCs => true
  | .popDs => true
  | .popEs => true
  | .lodsb => true
  | .stosb => true
  | .xorAxAx => true
  | .xorBxBx => true
  | .incByteD16 _ => true
  | .decByteD16 _ => true
  | .inAlImm8 _ => true
  | .inAxImm8 _ => true
  | .outImm8Al _ => true
  | .outImm8Ax _ => true
  | .intImm8 _ => true
  | .iret => true
  | .cli => true
  | .sti => true
  | .hlt => true

end Sys2Proof
end

