-- ==== Sys2Proof/Decode.lean ====
section
/-! DEFINITION. The opcode map (30_encoding.md R84), the formats (R85), the decoder (R81 to R83, R86) and the encoder.
The decoder is written once over two ways of fetching a field, so that a list of bytes (`decode`) and the machine's
bounds-checked memory (`Machine.fetch`) are decoded by the same text. -/

namespace Sys2Proof

open Sys2Proof.Machine

/-- The twelve formats of R85. -/
inductive Format where
  | op | opI8 | opR8 | opI16 | opA16 | opR16 | opM | opMI8 | opMD16 | opMI16 | opMD16I8 | opMD16I16
deriving DecidableEq, Repr

/-- The operand fields of one instruction: `r` opcode bits 2:0, `m` the ModRM byte, `b` imm8 or rel8, `w` imm16,
addr16 or rel16, `d` disp16. A field that the format does not have is 0. -/
structure Fields where
  r : BitVec 3
  m : Byte
  b : Byte
  w : Word
  d : Word
deriving DecidableEq, Repr

/-- Which ModRM bytes a form takes (R83): one exact value, those that match CMP83_MATCH (opcode 0x83, R131), or every
one (the variants of MUL_F6_MODE, R174). -/
inductive ModrmRule where
  | exactly (m : Byte)
  | cmp83
  | every
deriving DecidableEq, Repr

/-- One row of the opcode map: an opcode byte matches when `op &&& opMask = opMatch`, and where the form has a ModRM
byte that byte must meet the rule `modrm`. -/
structure Row where
  opMask  : Byte
  opMatch : Byte
  modrm   : Option ModrmRule
  format  : Format
  build   : Fields → Instr

/-- Why a decoding is rejected. The first two are the spec's (R83, R88); the third is a list of bytes too short. -/
inductive DecodeError where
  | unrecognizedOpcode (op : Byte)
  | unsupportedEncoding (modrm : Byte)
  | truncated
deriving DecidableEq, Repr

/-! ## Register numbers (10_state.md R23) -/

def Reg8.ofBits (b : BitVec 3) : Reg8 :=
  match b.toNat with
  | 0 => .al | 1 => .cl | 2 => .dl | 3 => .bl | 4 => .ah | 5 => .ch | 6 => .dh | _ => .bh

def Reg8.toBits : Reg8 → BitVec 3
  | .al => 0 | .cl => 1 | .dl => 2 | .bl => 3 | .ah => 4 | .ch => 5 | .dh => 6 | .bh => 7

def Reg16.ofBits (b : BitVec 3) : Reg16 :=
  match b.toNat with
  | 0 => .ax | 1 => .cx | 2 => .dx | 3 => .bx | 4 => .sp | 5 => .bp | 6 => .si | _ => .di

def Reg16.toBits : Reg16 → BitVec 3
  | .ax => 0 | .cx => 1 | .dx => 2 | .bx => 3 | .sp => 4 | .bp => 5 | .si => 6 | .di => 7

/-! ## The opcode map (R84) -/

/-- A row for a form without a ModRM byte. -/
def plainRow (op : Byte) (f : Format) (build : Fields → Instr) : Row := ⟨0xFF, op, none, f, build⟩

/-- A row for a form selected by the exact value of its ModRM byte (R83). -/
def modrmRow (op m : Byte) (f : Format) (build : Fields → Instr) : Row := ⟨0xFF, op, some (.exactly m), f, build⟩

def movRows : List Row := [
  ⟨0xF8, 0xB0, none, .opI8, fun f => .movR8Imm8 (Reg8.ofBits f.r) f.b⟩,
  ⟨0xF8, 0xB8, none, .opI16, fun f => .movR16Imm16 (Reg16.ofBits f.r) f.w⟩,
  modrmRow 0x8E 0xD8 .opM fun _ => .movDsAx,
  modrmRow 0x8E 0xC0 .opM fun _ => .movEsAx,
  modrmRow 0x8E 0xD0 .opM fun _ => .movSsAx,
  modrmRow 0x89 0x06 .opMD16 fun f => .movD16Ax f.d,
  modrmRow 0x8B 0x06 .opMD16 fun f => .movAxD16 f.d,
  plainRow 0xA0 .opA16 fun f => .movAlA16 f.w,
  plainRow 0xA1 .opA16 fun f => .movAxA16 f.w,
  modrmRow 0xC6 0x06 .opMD16I8 fun f => .movByteD16Imm8 f.d f.b,
  modrmRow 0xC7 0x06 .opMD16I16 fun f => .movWordD16Imm16 f.d f.w,
  modrmRow 0xC7 0x04 .opMI16 fun f => .movWordSiImm16 f.w]

def arithRows : List Row := [
  modrmRow 0x01 0xD8 .opM fun _ => .addAxBx,
  modrmRow 0x01 0x06 .opMD16 fun f => .addD16Ax f.d,
  modrmRow 0x03 0x06 .opMD16 fun f => .addAxD16 f.d,
  modrmRow 0x03 0x04 .opM fun _ => .addAxSi,
  plainRow 0x05 .opI16 fun f => .addAxImm16 f.w,
  modrmRow 0x29 0xD8 .opM fun _ => .subAxBx,
  modrmRow 0x2B 0x06 .opMD16 fun f => .subAxD16 f.d,
  plainRow 0x2D .opI16 fun f => .subAxImm16 f.w,
  modrmRow 0x3B 0xC3 .opM fun _ => .cmpAxBx,
  modrmRow 0x3B 0x06 .opMD16 fun f => .cmpAxD16 f.d,
  plainRow 0x3C .opI8 fun f => .cmpAlImm8 f.b,
  ⟨0xFF, 0x83, some .cmp83, .opMI8, fun f => .cmpAxImm8 f.m f.b⟩]

def controlRows : List Row := [
  plainRow 0x72 .opR8 fun f => .jc f.b,
  plainRow 0x73 .opR8 fun f => .jnc f.b,
  plainRow 0x74 .opR8 fun f => .je f.b,
  plainRow 0x75 .opR8 fun f => .jne f.b,
  plainRow 0x77 .opR8 fun f => .ja f.b,
  plainRow 0xE9 .opR16 fun f => .jmpRel16 f.w,
  plainRow 0xEB .opR8 fun f => .jmpRel8 f.b,
  plainRow 0xE8 .opR16 fun f => .callRel16 f.w,
  plainRow 0xC3 .op fun _ => .ret]

def stackRows : List Row := [
  plainRow 0x50 .op fun _ => .pushAx,
  plainRow 0x58 .op fun _ => .popAx,
  plainRow 0x0E .op fun _ => .pushCs,
  plainRow 0x1F .op fun _ => .popDs,
  plainRow 0x07 .op fun _ => .popEs,
  plainRow 0xAC .op fun _ => .lodsb,
  plainRow 0xAA .op fun _ => .stosb]

def logicRows : List Row := [
  modrmRow 0x31 0xC0 .opM fun _ => .xorAxAx,
  modrmRow 0x33 0xDB .opM fun _ => .xorBxBx,
  modrmRow 0xFE 0x06 .opMD16 fun f => .incByteD16 f.d,
  modrmRow 0xFE 0x0E .opMD16 fun f => .decByteD16 f.d]

def ioRows : List Row := [
  plainRow 0xE4 .opI8 fun f => .inAlImm8 f.b,
  plainRow 0xE5 .opI8 fun f => .inAxImm8 f.b,
  plainRow 0xE6 .opI8 fun f => .outImm8Al f.b,
  plainRow 0xE7 .opI8 fun f => .outImm8Ax f.b]

def systemRows : List Row := [
  plainRow 0xCD .opI8 fun f => .intImm8 f.b,
  plainRow 0xCF .op fun _ => .iret,
  plainRow 0xFA .op fun _ => .cli,
  plainRow 0xFB .op fun _ => .sti,
  plainRow 0xF4 .op fun _ => .hlt]

/-- Opcode 0xF6 by `MUL_F6_MODE` (R174): the two variants accept every ModRM byte and ignore its value. -/
def mulRows : MulF6Mode → List Row
  | .byModrm => [modrmRow 0xF6 0xE0 .opM fun _ => .mulAl, modrmRow 0xF6 0x27 .opM fun _ => .mulByteBx]
  | .variantAlAl => [⟨0xFF, 0xF6, some .every, .opM, fun _ => .mulAl⟩]
  | .variantAlMemBx => [⟨0xFF, 0xF6, some .every, .opM, fun _ => .mulByteBx⟩]

/-- The opcode map of R84, under the parameters `c`. -/
def opcodeMap (c : Config) : List Row :=
  movRows ++ arithRows ++ controlRows ++ stackRows ++ logicRows ++ ioRows ++ systemRows ++ mulRows c.mulF6Mode

def Row.acceptsOpcode (r : Row) (op : Byte) : Bool := op &&& r.opMask == r.opMatch

def Row.acceptsModrm (r : Row) (c : Config) (m : Byte) : Bool :=
  match r.modrm with
  | none => false
  | some (.exactly v) => m == v
  | some .cmp83 => modrmMatches c.cmp83Match m
  | some .every => true

/-- The rows an opcode byte selects (R81). -/
def rowsFor (c : Config) (op : Byte) : List Row := (opcodeMap c).filter (·.acceptsOpcode op)

/-! ## The decoder -/

/-- The operand fields of a format, fetched in increasing offset, each field one access (R82, R85). -/
def Format.fetchFields {ε : Type} (f8 : Nat → Except ε Byte) (f16 : Nat → Except ε Word) (op m : Byte) :
    Format → Except ε Fields
  | .op | .opM => .ok ⟨op.setWidth 3, m, 0, 0, 0⟩
  | .opI8 | .opR8 => do
    let b ← f8 1
    .ok ⟨op.setWidth 3, m, b, 0, 0⟩
  | .opI16 | .opA16 | .opR16 => do
    let w ← f16 1
    .ok ⟨op.setWidth 3, m, 0, w, 0⟩
  | .opMI8 => do
    let b ← f8 2
    .ok ⟨op.setWidth 3, m, b, 0, 0⟩
  | .opMD16 => do
    let d ← f16 2
    .ok ⟨op.setWidth 3, m, 0, 0, d⟩
  | .opMI16 => do
    let w ← f16 2
    .ok ⟨op.setWidth 3, m, 0, w, 0⟩
  | .opMD16I8 => do
    let d ← f16 2
    let b ← f8 4
    .ok ⟨op.setWidth 3, m, b, 0, d⟩
  | .opMD16I16 => do
    let d ← f16 2
    let w ← f16 4
    .ok ⟨op.setWidth 3, m, 0, w, d⟩

/-- The instruction whose opcode byte is `op`, its further fields read by `f8` and `f16` at their offset from the
opcode. The ModRM byte is checked as soon as it is fetched, before any further field (R82, R83). -/
def decodeFrom {ε : Type} (c : Config) (f8 : Nat → Except ε Byte) (f16 : Nat → Except ε Word)
    (reject : DecodeError → ε) (op : Byte) : Except ε Instr :=
  match rowsFor c op with
  | [] => .error (reject (.unrecognizedOpcode op))
  | row :: rest =>
    match row.modrm with
    | none => do
      let f ← row.format.fetchFields f8 f16 op 0
      .ok (row.build f)
    | some _ => do
      let m ← f8 1
      match (row :: rest).find? (·.acceptsModrm c m) with
      | none => .error (reject (.unsupportedEncoding m))
      | some r => do
        let f ← r.format.fetchFields f8 f16 op m
        .ok (r.build f)

/-- The byte at offset `k` of a list of bytes. -/
def byteField (bs : List Byte) (k : Nat) : Except DecodeError Byte :=
  match bs[k]? with
  | some b => .ok b
  | none => .error .truncated

/-- The little-endian word at offset `k` of a list of bytes (R86). -/
def wordField (bs : List Byte) (k : Nat) : Except DecodeError Word := do
  let lo ← byteField bs k
  let hi ← byteField bs (k + 1)
  .ok (joinBytes lo hi)

/-- The total length in bytes of each form, opcode included (R84, R87). -/
def Instr.length : Instr → Nat
  | .ret | .pushAx | .popAx | .pushCs | .popDs | .popEs | .lodsb | .stosb | .iret | .cli | .sti | .hlt => 1
  | .movR8Imm8 _ _ | .movDsAx | .movEsAx | .movSsAx | .addAxBx | .addAxSi | .subAxBx | .cmpAxBx | .cmpAlImm8 _
  | .jc _ | .jnc _ | .je _ | .jne _ | .ja _ | .jmpRel8 _ | .xorAxAx | .xorBxBx | .mulAl | .mulByteBx
  | .inAlImm8 _ | .inAxImm8 _ | .outImm8Al _ | .outImm8Ax _ | .intImm8 _ => 2
  | .movR16Imm16 _ _ | .movAlA16 _ | .movAxA16 _ | .addAxImm16 _ | .subAxImm16 _ | .cmpAxImm8 _ _
  | .jmpRel16 _ | .callRel16 _ => 3
  | .movD16Ax _ | .movAxD16 _ | .movWordSiImm16 _ | .addD16Ax _ | .addAxD16 _ | .subAxD16 _ | .cmpAxD16 _
  | .incByteD16 _ | .decByteD16 _ => 4
  | .movByteD16Imm8 _ _ => 5
  | .movWordD16Imm16 _ _ => 6

/-- The instruction at the front of a list of bytes and the bytes after it, or why there is none. -/
def decode (c : Config) (bs : List Byte) : Except DecodeError (Instr × List Byte) :=
  match bs with
  | [] => .error .truncated
  | op :: _ => do
    let i ← decodeFrom c (byteField bs) (wordField bs) id op
    .ok (i, bs.drop i.length)

/-! ## The encoder -/

/-- A 16-bit field as its two bytes, low byte first (R85). -/
def wordBytes (w : Word) : List Byte := [lowByte w, highByte w]

/-- The bytes of an instruction in fetch order (R84, R85). In the two variants of `MUL_F6_MODE`, where every ModRM
selects the form, the byte of the default mode is taken (log entry 16). -/
def encode : Instr → List Byte
  | .movR8Imm8 r imm => [0xB0 ||| r.toBits.setWidth 8, imm]
  | .movR16Imm16 r imm => (0xB8 ||| r.toBits.setWidth 8) :: wordBytes imm
  | .movDsAx => [0x8E, 0xD8]
  | .movEsAx => [0x8E, 0xC0]
  | .movSsAx => [0x8E, 0xD0]
  | .movD16Ax d => [0x89, 0x06] ++ wordBytes d
  | .movAxD16 d => [0x8B, 0x06] ++ wordBytes d
  | .movAlA16 a => 0xA0 :: wordBytes a
  | .movAxA16 a => 0xA1 :: wordBytes a
  | .movByteD16Imm8 d imm => [0xC6, 0x06] ++ wordBytes d ++ [imm]
  | .movWordD16Imm16 d imm => [0xC7, 0x06] ++ wordBytes d ++ wordBytes imm
  | .movWordSiImm16 imm => [0xC7, 0x04] ++ wordBytes imm
  | .addAxBx => [0x01, 0xD8]
  | .addD16Ax d => [0x01, 0x06] ++ wordBytes d
  | .addAxD16 d => [0x03, 0x06] ++ wordBytes d
  | .addAxSi => [0x03, 0x04]
  | .addAxImm16 imm => 0x05 :: wordBytes imm
  | .subAxBx => [0x29, 0xD8]
  | .subAxD16 d => [0x2B, 0x06] ++ wordBytes d
  | .subAxImm16 imm => 0x2D :: wordBytes imm
  | .cmpAxBx => [0x3B, 0xC3]
  | .cmpAxD16 d => [0x3B, 0x06] ++ wordBytes d
  | .cmpAlImm8 imm => [0x3C, imm]
  | .cmpAxImm8 m imm => [0x83, m, imm]
  | .jc rel => [0x72, rel]
  | .jnc rel => [0x73, rel]
  | .je rel => [0x74, rel]
  | .jne rel => [0x75, rel]
  | .ja rel => [0x77, rel]
  | .jmpRel16 rel => 0xE9 :: wordBytes rel
  | .jmpRel8 rel => [0xEB, rel]
  | .callRel16 rel => 0xE8 :: wordBytes rel
  | .ret => [0xC3]
  | .pushAx => [0x50]
  | .popAx => [0x58]
  | .pushCs => [0x0E]
  | .popDs => [0x1F]
  | .popEs => [0x07]
  | .lodsb => [0xAC]
  | .stosb => [0xAA]
  | .xorAxAx => [0x31, 0xC0]
  | .xorBxBx => [0x33, 0xDB]
  | .incByteD16 d => [0xFE, 0x06] ++ wordBytes d
  | .decByteD16 d => [0xFE, 0x0E] ++ wordBytes d
  | .mulAl => [0xF6, 0xE0]
  | .mulByteBx => [0xF6, 0x27]
  | .inAlImm8 p => [0xE4, p]
  | .inAxImm8 p => [0xE5, p]
  | .outImm8Al p => [0xE6, p]
  | .outImm8Ax p => [0xE7, p]
  | .intImm8 n => [0xCD, n]
  | .iret => [0xCF]
  | .cli => [0xFA]
  | .sti => [0xFB]
  | .hlt => [0xF4]

/-! ## Words numbered as spec/opcode_table.json numbers them -/

/-- The bytes of a table word, then zeros up to the longest instruction. The table numbers opcode and ModRM as one
16-bit value WITH THE OPCODE IN THE HIGH BYTE (INDEX.md), so the first byte fetched is the most significant of the
`nbits` bits (DEDUCED, log entry 8). -/
def tableBytes (nbits w : Nat) : List Byte :=
  (List.range 6).map fun k =>
    if 8 * (k + 1) ≤ nbits then BitVec.ofNat 8 (w / 2 ^ (nbits - 8 * (k + 1))) else 0

/-- The instruction the decoder reads, with the default parameters, from the instruction whose table word is `w`. -/
def decodeTableWord (nbits w : Nat) : Option Instr :=
  match decode defaultConfig (tableBytes nbits w) with
  | .ok (i, _) => some i
  | .error _ => none

end Sys2Proof
end

