-- ==== Sys2Proof/Machine/Fetch.lean ====
section
/-! DEFINITION. Fetching an instruction's bytes (30_encoding.md R80, R82) and rejecting an encoding (R83, R88). -/

namespace Sys2Proof.Machine

/-- The physical address of offset `k` of the instruction at `opip`: the offset wraps modulo 65536 within CS (R82). -/
def fetchAddress (cs opip : Word) (k : Nat) : Nat := translate cs (opip + BitVec.ofNat 16 k)

/-- `Fetch8(k)`. -/
def fetch8 (opip : Word) (s : State) (k : Nat) : Except State Byte := read8 opip (fetchAddress s.segs.cs opip k) s

/-- `Fetch16(k)`: one access of two consecutive physical bytes. -/
def fetch16 (opip : Word) (s : State) (k : Nat) : Except State Word := read16 opip (fetchAddress s.segs.cs opip k) s

/-- The fault of a rejected encoding (60_exceptions.md R204, R205). The decoder over memory never answers `truncated`;
that arm belongs to lists of bytes. -/
def rejectEncoding (opip : Word) (s : State) : DecodeError → State
  | .unrecognizedOpcode _ => s.raise .unrecognizedOpcode none opip
  | .unsupportedEncoding _ => s.raise .unsupportedEncoding none opip
  | .truncated => s.raise .unrecognizedOpcode none opip

/-- The state once the opcode byte `op` at IP is fetched: `last_instruction <- op`, `pc <- pc + 1` (R80). -/
def State.afterOpcode (s : State) (op : Byte) : State := { s with lastInstruction := op, ip := s.ip + 1 }

/-- Fetch and decode the instruction at CS:IP. A fault on the opcode fetch leaves IP and `last_instruction`
unchanged; a later one leaves IP = opip + 1 (60_exceptions.md R202). -/
def fetch (s : State) : Except State (Instr × State) := do
  let op ← read8 s.ip (translate s.segs.cs s.ip) s
  let s1 := s.afterOpcode op
  let i ← decodeFrom s.cfg (fetch8 s.ip s1) (fetch16 s.ip s1) (rejectEncoding s.ip s1) op
  .ok (i, s1)

/-- Store a byte where memory exists. -/
def State.placeByte (s : State) (a : Nat) (b : Byte) : State := if inBounds a 1 then s.setByte a b else s

/-- Store bytes where the fetch of an instruction at `cs:ip` reads them. Byte `k` lies at the address of offset
`ip + k`; where that offset wraps, it may also be the second byte of a field, which the fetch reads at the next
physical address, so it is stored there too (R82, 20_memory.md R60). Without a wrap the two places are one. -/
def placeCode (cs ip : Word) (bs : List Byte) (s : State) : State :=
  bs.zipIdx.foldl (fun t bk => (t.placeByte (fetchAddress cs ip bk.2) bk.1).placeByte (translate cs ip + bk.2) bk.1) s

/-- Where the next step of a running machine fetches: CS:IP after the interrupt service (R80), or CS:IP where that
faults. -/
def fetchPoint (s : State) : Word × Word :=
  match serviceInterrupts s with
  | .ok t => (t.segs.cs, t.ip)
  | .error _ => (s.segs.cs, s.ip)

end Sys2Proof.Machine
end

