-- ==== Sys2Proof/Machine/Step.lean ====
section
/-! DEFINITION. The step (30_encoding.md R80). -/

namespace Sys2Proof.Machine

/-- `Step()` (R80, 60_exceptions.md R208): a halted engine does nothing; else the interrupt service, the fetch, and the
instruction, each ending the step where it faults. -/
def step (s : State) : Host.Outcome State Fault Refusal :=
  if s.running then
    match serviceInterrupts s with
    | .error h => .next h
    | .ok s1 =>
      match fetch s1 with
      | .error h => .next h
      | .ok (i, s2) => exec i s2
  else .next s

/-- The running machine with the instruction whose table word is `w` stored where the next step fetches it
(log entries 8 and 9). -/
def State.withFetchWord (s : State) (nbits w : Nat) : State :=
  let s1 := { s with running := true }
  placeCode (fetchPoint s1).1 (fetchPoint s1).2 (tableBytes nbits w) s1

end Sys2Proof.Machine
end

