-- ==== Sys2Proof/Machine/HostActions.lean ====
section
/-! DEFINITION. What the host may do between steps (60_exceptions.md R222, R234; 70_reset_and_hazards.md R243). When it
may do so is the host's duty and not checked here (log entry 10). -/

namespace Sys2Proof.Machine

/-- `enqueue(b)` (R222): only the queue's slots and indices change. -/
def enqueue (b : Byte) (s : State) : State := s.setKbd (s.kbd.enqueue s.cfg.kbdOverflow b)

/-- Bytes stored at consecutive addresses. -/
def storeBytes (a : Nat) (bs : List Byte) (s : State) : State :=
  match bs with
  | [] => s
  | b :: rest => storeBytes (a + 1) rest (s.setByte a b)

/-- The firmware load (R243): a blob of at most 0xFFF00 bytes is copied to 0x00100 and up; a longer one is refused and
changes nothing. -/
def loadFirmware (blob : List Byte) (s : State) : State :=
  if blob.length ≤ 0xFFF00 then storeBytes 0x100 blob s else s

/-- What the host's snapshot shows (R232, R234): registers, flags, the text window, `last_instruction` and `diag`. That
"all registers" are the general and segment registers and IP, and take in no PIC register, is the model's choice
(DESIGN CHOICE, log entry 17). -/
def snapshot (s : State) : (Regs × Segs × Word × Flags) × List Byte × Byte × Option Diag :=
  ((s.regs, s.segs, s.ip, s.flags), (List.range 4000).map (fun k => s.byteAt (0xB8000 + k)), s.lastInstruction, s.diag)

end Sys2Proof.Machine
end

