-- ==== Sys2Proof/Safety.lean ====
section
/-! DEFINITION. What counts as a safe run, and the invariant of the machine, in the terms the statements use. -/

namespace Sys2Proof.Machine

/-- A run has ended (60_exceptions.md R235). -/
def State.ended (s : State) : Prop := s.running = false

/-- It ended by HLT (R235, 46_system.md R194). -/
def State.endedNormally (s : State) : Prop := s.running = false ∧ s.diag = none

/-- It ended by a fatal fault (R235, R201). -/
def State.endedByFault (s : State) : Prop := s.running = false ∧ s.diag ≠ none

/-- What holds of every state a run reaches: memory and the keyboard queue keep their canonical form, IRR and ISR have
no bit but bit 1 (10_state.md R32, R33), the keyboard status no bit but bit 0 (R36), and a recorded fault means the
engine has halted (R37, R39, R201). -/
structure State.Inv (s : State) : Prop where
  mem    : Memory.wf s.cfg s.mem = true
  kbd    : s.kbd.wf = true
  irr    : s.pic.irr &&& ~~~irq1 = 0
  isr    : s.pic.isr &&& ~~~irq1 = 0
  status : s.kbd.status &&& ~~~0x01 = 0
  diag   : s.diag ≠ none → s.running = false

end Sys2Proof.Machine
end

