-- ==== Sys2Proof/Certificates/Slice0/Obligations.lean ====
section
/-! DEFINITION. The statements for the provers. The vocabulary of `Sys2Proof.Claims` writes the rules' own formulas over
numbers and bits, apart from the machine's flag and arithmetic functions. A D number beside a rule is a decision of the
spec's own (92_eei_decisions.md) that the statement rests on; a log entry is a choice of the model's. -/

namespace Sys2Proof.Claims

open Sys2Proof.Machine

/-! ## Flags, as 10_state.md and 41_arith.md write them -/

/-- The number of set bits of `b` is even (R27). -/
def evenBits (b : Byte) : Bool := ((List.range 8).filter fun k => b.getLsbD k).length % 2 == 0

/-- PF of a low byte (R27, PARITY_EVEN_IS_ONE). -/
def parityFlag (c : Config) (b : Byte) : Bool := if c.parityEvenIsOne then evenBits b else !evenBits b

/-- ZF, SF and PF of a 16-bit result (R28). -/
def withZsp (c : Config) (v : Word) (f : Flags) : Flags :=
  { f with zero := decide (v.toNat = 0), sign := decide (0x8000 ≤ v.toNat), parity := parityFlag c (lowByte v) }

/-- ZF, SF and PF of an 8-bit result (R28): SF is 0, or bit 7 with BYTE_SF_BIT = 7. -/
def withZspByte (c : Config) (r : Byte) (f : Flags) : Flags :=
  { f with
    zero := decide (r.toNat = 0)
    sign := match c.byteSfBit with
      | .bit15 => false
      | .bit7 => decide (0x80 ≤ r.toNat)
    parity := parityFlag c r }

/-- The packed FLAGS word (R29). -/
def packed (f : Flags) : Nat :=
  f.carry.toNat + 2 * f.zero.toNat + 4 * f.sign.toNat + 8 * f.overflow.toNat + 16 * f.parity.toNat +
    32 * f.auxiliary.toNat + 64 * f.interrupt.toNat

/-! ## Results over AX -/

/-- AX <- AX + b modulo 65536, CF = (AX + b > 0xFFFF), ZF, SF, PF, pc <- opip + len (R113, R114). -/
def addResult (s : State) (b : Word) (len : Word) : State :=
  let sum := s.regs.ax.toNat + b.toNat
  { s with
    regs := { s.regs with ax := BitVec.ofNat 16 sum }
    flags := withZsp s.cfg (BitVec.ofNat 16 sum) { s.flags with carry := decide (0xFFFF < sum) }
    ip := s.opip + len }

/-- The flags of AX - b: CF = (AX < b), ZF, SF, PF of the difference modulo 65536 (R113, R114). -/
def subFlagsResult (s : State) (b : Word) : Flags :=
  withZsp s.cfg (BitVec.ofInt 16 (s.regs.ax.toNat - b.toNat)) { s.flags with carry := decide (s.regs.ax.toNat < b.toNat) }

/-- AX <- AL * b, CF = (product > 0xFF), ZF, SF, PF, pc <- opip + 2 (R174, R175). -/
def mulResult (s : State) (b : Byte) : State :=
  let p := (lowByte s.regs.ax).toNat * b.toNat
  { s with
    regs := { s.regs with ax := BitVec.ofNat 16 p }
    flags := withZsp s.cfg (BitVec.ofNat 16 p) { s.flags with carry := decide (0xFF < p) }
    ip := s.opip + 2 }

/-! ## Memory -/

/-- An access of `n` bytes at `a` is allowed (R55). -/
def Fits (a n : Nat) : Prop := a + n ≤ 0x100000

/-- From `s` to `t` the word `v` is stored at `a`, and no other byte of memory changes. -/
def StoresWord (s t : State) (a : Nat) (v : Word) : Prop :=
  t.byteAt a = lowByte v ∧ t.byteAt (a + 1) = highByte v ∧ ∀ b, b ≠ a → b ≠ a + 1 → t.byteAt b = s.byteAt b

/-- From `s` to `t` the byte `v` is stored at `a`, and no other byte of memory changes. -/
def StoresByte (s t : State) (a : Nat) (v : Byte) : Prop :=
  t.byteAt a = v ∧ ∀ b, b ≠ a → t.byteAt b = s.byteAt b

/-- The physical address `k` bytes below SS:SP, SP wrapping modulo 65536 (R57). -/
def below (s : State) (k : Word) : Nat := translate s.segs.ss (s.regs.sp - k)

/-- The physical address `k` bytes above SS:SP, SP wrapping modulo 65536 (R58). -/
def above (s : State) (k : Word) : Nat := translate s.segs.ss (s.regs.sp + k)

/-- From `s` an access at `a` has halted the engine with a MemoryFault that names `a` (R55); nothing else has changed.
-/
def FaultsAt (s h : State) (a : Nat) : Prop :=
  ∃ d, d.kind = .memoryFault ∧ d.addr = some a ∧ h = { s with running := false, diag := some d }

/-- The Halted state a MemoryFault at `a` leaves, the opcode address being `opip`. The whole content of `diag` is the
spec's own decision (R201, D25), and so is what stands after a fault (R202, D10; log entry 1). -/
def haltedByMemory (s : State) (a : Nat) (opip : Word) : State :=
  { s with running := false, diag := some ⟨.memoryFault, s.lastInstruction, s.segs.cs, opip, some a⟩ }

/-! ## What each instruction may write -/

/-- The 16-bit register an 8-bit name is half of (R22). -/
def wholeOf : Reg8 → Reg16
  | .al | .ah => .ax
  | .cl | .ch => .cx
  | .dl | .dh => .dx
  | .bl | .bh => .bx

/-- What an instruction may write, IP apart: the general registers (its destination and, for stack and string forms,
SP, SI or DI), the segment registers (R24), CF, the three flags ZF, SF and PF, and IF (R31), and the addresses of the
bytes it stores to. OF and AF are written by IRET only. -/
structure Writes where
  regs      : List Reg16 := []
  segs      : List SegReg := []
  carry     : Bool := false
  zsp       : Bool := false
  interrupt : Bool := false
  bytes     : List Nat := []

/-- The two bytes of a word at `a`. -/
def wordAddrs (a : Nat) : List Nat := [a, a + 1]

/-- What each instruction may write from the state `s` it starts in, by its own rule. -/
def writes (s : State) : Instr → Writes
  | .movR8Imm8 r _ => { regs := [wholeOf r] }
  | .movR16Imm16 r _ => { regs := [r], zsp := true }
  | .movDsAx => { segs := [.ds] }
  | .movEsAx => { segs := [.es] }
  | .movSsAx => { segs := [.ss] }
  | .movD16Ax d => { bytes := wordAddrs (s.ea (.direct d)) }
  | .movAxD16 _ => { regs := [.ax], zsp := true }
  | .movAlA16 _ => { regs := [.ax] }
  | .movAxA16 _ => { regs := [.ax] }
  | .movByteD16Imm8 d _ => { bytes := [s.ea (.direct d)] }
  | .movWordD16Imm16 d _ => { bytes := wordAddrs (s.ea (.direct d)) }
  | .movWordSiImm16 _ => { bytes := wordAddrs (s.ea .siRelative) }
  | .addAxBx => { regs := [.ax], carry := true, zsp := true }
  | .addD16Ax d => { carry := true, zsp := true, bytes := wordAddrs (s.ea (.direct d)) }
  | .addAxD16 _ => { regs := [.ax], carry := true, zsp := true }
  | .addAxSi => { regs := [.ax], carry := true, zsp := true }
  | .addAxImm16 _ => { regs := [.ax], carry := true, zsp := true }
  | .subAxBx => { regs := [.ax], carry := true, zsp := true }
  | .subAxD16 _ => { regs := [.ax], carry := true, zsp := true }
  | .subAxImm16 _ => { regs := [.ax], carry := true, zsp := true }
  | .cmpAxBx => { carry := true, zsp := true }
  | .cmpAxD16 _ => { carry := true, zsp := true }
  | .cmpAlImm8 _ => { carry := true, zsp := true }
  | .cmpAxImm8 _ _ => { carry := true, zsp := true }
  | .jc _ => {}
  | .jnc _ => {}
  | .je _ => {}
  | .jne _ => {}
  | .ja _ => {}
  | .jmpRel16 _ => {}
  | .jmpRel8 _ => {}
  | .callRel16 _ => { regs := [.sp], bytes := wordAddrs (below s 2) }
  | .ret => { regs := [.sp] }
  | .pushAx => { regs := [.sp], bytes := wordAddrs (below s 2) }
  | .popAx => { regs := [.ax, .sp] }
  | .pushCs => { regs := [.sp], bytes := wordAddrs (below s 2) }
  | .popDs => { regs := [.sp], segs := [.ds] }
  | .popEs => { regs := [.sp], segs := [.es] }
  | .lodsb => { regs := [.ax, .si] }
  | .stosb => { regs := [.di], bytes := [s.ea .stringDestination] }
  | .xorAxAx => { regs := [.ax], zsp := true }
  | .xorBxBx => { regs := [.bx], zsp := true }
  | .incByteD16 d => { zsp := true, bytes := [s.ea (.direct d)] }
  | .decByteD16 d => { zsp := true, bytes := [s.ea (.direct d)] }
  | .mulAl => { regs := [.ax], carry := true, zsp := true }
  | .mulByteBx => { regs := [.ax], carry := true, zsp := true }
  | .inAlImm8 _ => { regs := [.ax] }
  | .inAxImm8 _ => { regs := [.ax] }
  | .outImm8Al _ => {}
  | .outImm8Ax _ => {}
  | .intImm8 _ =>
    if s.flags.interrupt then
      { regs := [.sp], segs := [.cs], interrupt := true
        bytes := wordAddrs (below s 2) ++ wordAddrs (below s 4) ++ wordAddrs (below s 6) }
    else {}
  | .iret => { regs := [.sp], segs := [.cs], carry := true, zsp := true, interrupt := true }
  | .cli => { interrupt := true }
  | .sti => { interrupt := true }
  | .hlt => {}

/-! ## Ports (R224 to R227) -/

/-- The byte `PortRead(p)` returns. -/
def portValue (s : State) (p : Byte) : Byte :=
  if p = 0x60 then (if s.kbd.head = s.kbd.tail then 0 else s.kbd.slot s.kbd.head)
  else if p = 0x64 then s.kbd.status
  else if p = 0x21 then s.pic.imr
  else 0

/-- The keyboard queue after `PortRead(p)`: port 0x60 pops, and clears status bit 0 when that empties the queue. -/
def queueAfterRead (s : State) (p : Byte) : Keyboard :=
  if p = 0x60 ∧ s.kbd.head ≠ s.kbd.tail then
    { s.kbd with
      head := s.kbd.head + 1
      status := if s.kbd.head + 1 = s.kbd.tail then s.kbd.status &&& 0xFE else s.kbd.status }
  else s.kbd

/-- The PIC after `PortWrite(p, v)`. -/
def picAfterWrite (s : State) (p v : Byte) : Pic :=
  if p = 0x21 then { s.pic with imr := v }
  else if p = 0x20 ∧ v = 0x20 then { s.pic with isr := 0 }
  else s.pic

/-- The bytes read by `n` reads of port 0x60, and the queue after them. -/
def drain : Nat → Keyboard → List Byte × Keyboard
  | 0, k => ([], k)
  | n + 1, k => (k.read60.1 :: (drain n k.read60.2).1, (drain n k.read60.2).2)

/-! ## Encodings and code in memory -/

/-- The opcode bytes of R84. -/
def listedOpcodes : List Byte := [
  0xB0, 0xB1, 0xB2, 0xB3, 0xB4, 0xB5, 0xB6, 0xB7, 0xB8, 0xB9, 0xBA, 0xBB, 0xBC, 0xBD, 0xBE, 0xBF,
  0x8E, 0x89, 0x8B, 0xA0, 0xA1, 0xC6, 0xC7, 0x01, 0x03, 0x05, 0x29, 0x2B, 0x2D, 0x3B, 0x3C, 0x83,
  0x72, 0x73, 0x74, 0x75, 0x77, 0xE9, 0xEB, 0xE8, 0xC3, 0x50, 0x58, 0x0E, 0x1F, 0x07, 0xAC, 0xAA,
  0x31, 0x33, 0xFE, 0xF6, 0xE4, 0xE5, 0xE6, 0xE7, 0xCD, 0xCF, 0xFA, 0xFB, 0xF4]

/-- The opcodes that take a ModRM byte (R84). -/
def modrmOpcodes : List Byte := [
  0x8E, 0x89, 0x8B, 0xC6, 0xC7, 0x01, 0x03, 0x29, 0x2B, 0x3B, 0x83, 0x31, 0x33, 0xFE, 0xF6]

/-- The ModRM values that R84 lists for the opcodes whose values no parameter selects. -/
def listedModrm : List (Byte × List Byte) := [
  (0x8E, [0xD8, 0xC0, 0xD0]), (0x89, [0x06]), (0x8B, [0x06]), (0xC6, [0x06]), (0x2B, [0x06]), (0xC7, [0x06, 0x04]),
  (0x03, [0x06, 0x04]), (0x01, [0xD8, 0x06]), (0x29, [0xD8]), (0x3B, [0xC3, 0x06]), (0x31, [0xC0]), (0x33, [0xDB]),
  (0xFE, [0x06, 0x0E])]

/-- The opcode `op` accepts the ModRM byte `m`: 0x83 by CMP83_MATCH (R131, D5), 0xF6 by MUL_F6_MODE (R174, D18), every
other opcode the values that R84 lists for it (R83, R204). -/
def acceptsModrm (c : Config) (op m : Byte) : Bool :=
  if op = 0x83 then m &&& c.cmp83Match.mask = c.cmp83Match.value
  else if op = 0xF6 then c.mulF6Mode ≠ .byModrm ∨ m = 0xE0 ∨ m = 0x27
  else listedModrm.any fun r => r.1 = op ∧ m ∈ r.2

/-- The opcodes whose byte at offset 1 is an imm8 or rel8 (formats OP_I8 and OP_R8, R84). -/
def byteAtOffsetOne : List Byte := [
  0xB0, 0xB1, 0xB2, 0xB3, 0xB4, 0xB5, 0xB6, 0xB7, 0x3C, 0x72, 0x73, 0x74, 0x75, 0x77, 0xEB, 0xE4, 0xE5, 0xE6, 0xE7, 0xCD]

/-- The opcodes whose field at offset 1 is a word (formats OP_I16, OP_A16 and OP_R16, R84). -/
def wordAtOffsetOne : List Byte := [
  0xB8, 0xB9, 0xBA, 0xBB, 0xBC, 0xBD, 0xBE, 0xBF, 0xA0, 0xA1, 0x05, 0x2D, 0xE9, 0xE8]

/-- The opcode and ModRM bytes of the forms whose field at offset 2 is a word (formats OP_M_D16, OP_M_I16,
OP_M_D16_I8 and OP_M_D16_I16, R84). -/
def wordAtOffsetTwo : List (Byte × Byte) := [
  (0x89, 0x06), (0x8B, 0x06), (0xC6, 0x06), (0xC7, 0x06), (0xC7, 0x04), (0x01, 0x06), (0x03, 0x06), (0x2B, 0x06),
  (0x3B, 0x06), (0xFE, 0x06), (0xFE, 0x0E)]

/-- The bytes of `i` lie in memory where the fetch at CS:IP reads them (R82): byte `k` at offset IP + k modulo 65536
and, where that wraps, also at the next physical byte, which a two-byte field may take (20_memory.md R60). Where
nothing wraps the two addresses are one. -/
def CodeAt (s : State) (i : Instr) : Prop :=
  ∀ k b, (encode i)[k]? = some b →
    Fits (fetchAddress s.segs.cs s.ip k) 1 ∧ s.byteAt (fetchAddress s.segs.cs s.ip k) = b ∧
    Fits (translate s.segs.cs s.ip + k) 1 ∧ s.byteAt (translate s.segs.cs s.ip + k) = b

/-- `s` is running, its interrupt service ends in `s1`, and the opcode byte `op` is fetched at CS:IP of `s1`. -/
def FetchesOpcode (s s1 : State) (op : Byte) : Prop :=
  s.running = true ∧ serviceInterrupts s = .ok s1 ∧ Fits (translate s1.segs.cs s1.ip) 1 ∧
    s1.byteAt (translate s1.segs.cs s1.ip) = op

/-- The ModRM byte `m` is fetched, at offset 1 of the instruction at CS:IP of `s1`. -/
def FetchesModrm (s1 : State) (m : Byte) : Prop :=
  Fits (fetchAddress s1.segs.cs s1.ip 1) 1 ∧ s1.byteAt (fetchAddress s1.segs.cs s1.ip 1) = m

/-- The Halted state where the opcode `op` at CS:IP of `s1` is fetched and its field at offset `k` does not fit: IP is
opip + 1 (R82, R202). -/
def haltedByField (s1 : State) (op : Byte) (k : Nat) : State :=
  haltedByMemory { s1 with lastInstruction := op, ip := s1.ip + 1 } (fetchAddress s1.segs.cs s1.ip k) s1.ip

/-- IRQ1 is requested (pending, or polled from a non-empty queue), unmasked and enabled (R211). -/
def TakesIrq1 (s : State) : Prop :=
  s.flags.interrupt = true ∧ (s.pic.irr.getLsbD 1 = true ∨ s.kbd.head ≠ s.kbd.tail) ∧ s.pic.imr.getLsbD 1 = false

/-- The state after the keyboard poll (R211). -/
def polled (s : State) : State :=
  if s.kbd.head = s.kbd.tail then s
  else { s with pic := { s.pic with irr := s.pic.irr ||| 0x02 }, kbd := { s.kbd with status := s.kbd.status ||| 0x01 } }

/-- What `EnterInterrupt(n, ret)` does from `s` to `t` (R212): FLAGS, CS and `ret` pushed in that order, CS:IP from
the IVT as it reads after the pushes, IF cleared, ISR bit 1 set, everything else unchanged but `irr`, which is given.
-/
def Enters (s t : State) (n : Byte) (ret : Word) (irr : Byte) : Prop :=
  t.wordAt (below s 2) = BitVec.ofNat 16 (packed s.flags) ∧ t.wordAt (below s 4) = s.segs.cs ∧
  t.wordAt (below s 6) = ret ∧
  (∀ b, b ∉ [below s 2, below s 2 + 1, below s 4, below s 4 + 1, below s 6, below s 6 + 1] → t.byteAt b = s.byteAt b) ∧
  t = { s with
    regs := { s.regs with sp := s.regs.sp - 6 }
    segs := { s.segs with cs := t.wordAt (4 * n.toNat + 2) }
    ip := t.wordAt (4 * n.toNat)
    flags := { s.flags with interrupt := false }
    pic := { s.pic with irr := irr, isr := s.pic.isr ||| 0x02 }
    mem := t.mem }

/-- The bytes that the pushes of an interrupt entry before the one at SP - `k` store. -/
def pushedBefore (s : State) (k : Word) : List Nat :=
  if k = 2 then [] else if k = 4 then wordAddrs (below s 2) else wordAddrs (below s 2) ++ wordAddrs (below s 4)

/-- `EnterInterrupt` from `s` halts in `t` because its push at SP - `k`, the first that does not fit, faults: SP is
decremented so far, the pushes before it stand, no other byte of memory and nothing else has changed (R55, R57, R202,
R212; D10, D25, D35). `opip` is the address that the diagnostic reports. -/
def EntryFaults (s t : State) (k opip : Word) : Prop :=
  k ∈ [(2 : Word), 4, 6] ∧ ¬ Fits (below s k) 2 ∧
  (k ≠ 2 → Fits (below s 2) 2 ∧ t.wordAt (below s 2) = BitVec.ofNat 16 (packed s.flags)) ∧
  (k = 6 → Fits (below s 4) 2 ∧ t.wordAt (below s 4) = s.segs.cs) ∧
  (∀ b, b ∉ pushedBefore s k → t.byteAt b = s.byteAt b) ∧
  t = { s with
    regs := { s.regs with sp := s.regs.sp - k }
    mem := t.mem
    running := false
    diag := some ⟨.memoryFault, s.lastInstruction, s.segs.cs, opip, some (below s k)⟩ }

end Sys2Proof.Claims

open Sys2Proof Sys2Proof.Machine Sys2Proof.Claims

/-! ## Memory and stack primitives (20_memory.md) -/

/-- R53: a read within bounds returns the little-endian value and, being no update, has no side effect; else it
raises. -/
def Obligations.MemReadChecksBoundsThenReadsLittleEndian : Prop :=
  ∀ (o : Word) (a : Nat) (s : State),
    (Fits a 1 → read8 o a s = .ok (s.byteAt a)) ∧
    (Fits a 2 → ∃ v, read16 o a s = .ok v ∧ v.toNat = (s.byteAt a).toNat + 256 * (s.byteAt (a + 1)).toNat) ∧
    (¬ Fits a 1 → ∃ h, read8 o a s = .error h ∧ FaultsAt s h a) ∧
    (¬ Fits a 2 → ∃ h, read16 o a s = .error h ∧ FaultsAt s h a)

/-- R54: a write within bounds stores its bytes, low byte first, and no other byte or field changes; else it raises
and stores nothing. A later read returns what was written. -/
def Obligations.MemWriteStoresExactlyItsBytes : Prop :=
  ∀ (o : Word) (a : Nat) (s : State),
    (∀ v, Fits a 1 → ∃ t, write8 o a v s = .ok t ∧ StoresByte s t a v ∧ t = { s with mem := t.mem } ∧
      read8 o a t = .ok v) ∧
    (∀ v, Fits a 2 → ∃ t, write16 o a v s = .ok t ∧ StoresWord s t a v ∧ t = { s with mem := t.mem } ∧
      read16 o a t = .ok v) ∧
    (∀ v, ¬ Fits a 1 → ∃ h, write8 o a v s = .error h ∧ FaultsAt s h a) ∧
    (∀ v, ¬ Fits a 2 → ∃ h, write16 o a v s = .error h ∧ FaultsAt s h a)

/-- R57 (D35): SP is decremented first, modulo 65536, and stays so where the write faults. -/
def Obligations.PushDecrementsSpThenWrites : Prop :=
  ∀ (o v : Word) (s : State),
    (Fits (below s 2) 2 → ∃ t, push o v s = .ok t ∧ StoresWord s t (below s 2) v ∧
      t = { s with regs := { s.regs with sp := s.regs.sp - 2 }, mem := t.mem }) ∧
    (¬ Fits (below s 2) 2 → push o v s =
      .error (haltedByMemory { s with regs := { s.regs with sp := s.regs.sp - 2 } } (below s 2) o))

/-- R58 (D35): a pop reads at SS:SP, then increments SP; where the read faults SP is unchanged; a push followed by a
pop returns the value and leaves SP at its original value. -/
def Obligations.PopReadsThenIncrementsSpAndUndoesPush : Prop :=
  ∀ (o : Word) (s : State),
    (Fits (above s 0) 2 → pop o s =
      .ok (s.wordAt (above s 0), { s with regs := { s.regs with sp := s.regs.sp + 2 } })) ∧
    (¬ Fits (above s 0) 2 → pop o s = .error (haltedByMemory s (above s 0) o)) ∧
    (∀ v, Fits (below s 2) 2 → ∃ t u, push o v s = .ok t ∧ pop o t = .ok (v, u) ∧ u.regs = s.regs)

/-! ## Flags (10_state.md) -/

/-- R27, R28 (D1, D3): the updater writes ZF, SF and PF, and no other flag, for a 16-bit and for a byte result. -/
def Obligations.UpdateFlagsWritesZeroSignParity : Prop :=
  ∀ (c : Config) (f : Flags),
    (∀ v : Word, updateFlags c v f = withZsp c v f) ∧ (∀ r : Byte, updateFlagsByte c r f = withZspByte c r f)

/-- R29, R30 (D31): the packing, its upper bits zero, and unpacking, which ignores bits 15:7 and undoes packing. -/
def Obligations.UnpackFlagsUndoesPackFlags : Prop :=
  (∀ f : Flags, (packFlags f).toNat = packed f ∧ unpackFlags (packFlags f) = f) ∧
  (∀ w : Word, unpackFlags w = unpackFlags (w &&& 0x007F) ∧ packFlags (unpackFlags w) = w &&& 0x007F)

/-! ## Data transfer (40_mov.md) -/

/-- R100 to R104 (D2): the register forms complete from every state; an 8-bit move changes its own 8 bits only. -/
def Obligations.MovRegisterFormsWriteTheirDestination : Prop :=
  (∀ r imm s, ∃ t, exec (.movR8Imm8 r imm) s = .next t ∧ t.reg8 r = imm ∧ (∀ q, q ≠ r → t.reg8 q = s.reg8 q) ∧
    (∀ q, q ∉ [Reg16.ax, Reg16.cx, Reg16.dx, Reg16.bx] → t.reg q = s.reg q) ∧
    t = { s with regs := t.regs, ip := s.opip + 2 }) ∧
  (∀ r imm s, ∃ t, exec (.movR16Imm16 r imm) s = .next t ∧ t.reg r = imm ∧ (∀ q, q ≠ r → t.reg q = s.reg q) ∧
    t = { s with regs := t.regs, flags := withZsp s.cfg imm s.flags, ip := s.opip + 3 }) ∧
  (∀ s, exec .movDsAx s = .next { s with segs := { s.segs with ds := s.regs.ax }, ip := s.opip + 2 }) ∧
  (∀ s, exec .movEsAx s = .next { s with segs := { s.segs with es := s.regs.ax }, ip := s.opip + 2 }) ∧
  (∀ s, exec .movSsAx s = .next { s with segs := { s.segs with ss := s.regs.ax }, ip := s.opip + 2 })

/-- R106 to R108 (D2, D7): the loads complete where their operand fits; only 0x8B writes flags. -/
def Obligations.MovLoadsReadTheirOperand : Prop :=
  (∀ d s, Fits (translate s.segs.ds d) 2 → exec (.movAxD16 d) s = .next { s with
    regs := { s.regs with ax := s.wordAt (translate s.segs.ds d) }
    flags := withZsp s.cfg (s.wordAt (translate s.segs.ds d)) s.flags
    ip := s.opip + 4 }) ∧
  (∀ a s, Fits (translate s.segs.ds a) 1 → exec (.movAlA16 a) s = .next { s with
    regs := { s.regs with ax := joinBytes (s.byteAt (translate s.segs.ds a)) (highByte s.regs.ax) }
    ip := s.opip + 3 }) ∧
  (∀ a s, Fits (translate s.segs.ds a) 2 → exec (.movAxA16 a) s = .next { s with
    regs := { s.regs with ax := s.wordAt (translate s.segs.ds a) }, ip := s.opip + 3 })

/-- R105, R109 to R111 (D2, D7, D8): the stores complete where their operand fits, and change their bytes and IP only.
That 0xC6 is a plain write at every address is GRAPHICS_REDIRECT fixed off (D19; log entry 3). -/
def Obligations.MovStoresWriteTheirOperand : Prop :=
  (∀ d s, Fits (s.ea (.direct d)) 2 → ∃ t, exec (.movD16Ax d) s = .next t ∧
    StoresWord s t (s.ea (.direct d)) s.regs.ax ∧ t = { s with mem := t.mem, ip := s.opip + 4 }) ∧
  (∀ d imm s, Fits (s.ea (.direct d)) 1 → ∃ t, exec (.movByteD16Imm8 d imm) s = .next t ∧
    StoresByte s t (s.ea (.direct d)) imm ∧ t = { s with mem := t.mem, ip := s.opip + 5 }) ∧
  (∀ d imm s, Fits (s.ea (.direct d)) 2 → ∃ t, exec (.movWordD16Imm16 d imm) s = .next t ∧
    StoresWord s t (s.ea (.direct d)) imm ∧ t = { s with mem := t.mem, ip := s.opip + 6 }) ∧
  (∀ imm s, Fits (s.ea .siRelative) 2 → ∃ t, exec (.movWordSiImm16 imm) s = .next t ∧
    StoresWord s t (s.ea .siRelative) imm ∧ t = { s with mem := t.mem, ip := s.opip + 4 })

/-! ## Arithmetic (41_arith.md) -/

/-- R120, R122 to R124 (D2, D7): AX + operand modulo 65536, with CF of the exact sum. -/
def Obligations.AddToAxWrapsAndSetsFlags : Prop :=
  (∀ s, exec .addAxBx s = .next (addResult s s.regs.bx 2)) ∧
  (∀ d s, Fits (translate s.segs.ds d) 2 →
    exec (.addAxD16 d) s = .next (addResult s (s.wordAt (translate s.segs.ds d)) 4)) ∧
  (∀ s, Fits (translate s.segs.ds s.regs.si) 2 →
    exec .addAxSi s = .next (addResult s (s.wordAt (translate s.segs.ds s.regs.si)) 2)) ∧
  (∀ imm s, exec (.addAxImm16 imm) s = .next (addResult s imm 3))

/-- R121 (D2, D7): the sum goes to memory, and AX is unchanged. -/
def Obligations.AddToMemoryStoresTheSum : Prop :=
  ∀ d s, Fits (s.ea (.direct d)) 2 → ∃ t, exec (.addD16Ax d) s = .next t ∧
    let sum := (s.wordAt (s.ea (.direct d))).toNat + s.regs.ax.toNat
    StoresWord s t (s.ea (.direct d)) (BitVec.ofNat 16 sum) ∧
    t = { s with
      flags := withZsp s.cfg (BitVec.ofNat 16 sum) { s.flags with carry := decide (0xFFFF < sum) }
      mem := t.mem
      ip := s.opip + 4 }

/-- R125 to R127 (D2, D7, D32): AX - operand modulo 65536, with CF = borrow. -/
def Obligations.SubFromAxWrapsAndSetsFlags : Prop :=
  (∀ s, exec .subAxBx s = .next { s with
    regs := { s.regs with ax := BitVec.ofInt 16 (s.regs.ax.toNat - s.regs.bx.toNat) }
    flags := subFlagsResult s s.regs.bx
    ip := s.opip + 2 }) ∧
  (∀ d s, Fits (translate s.segs.ds d) 2 → exec (.subAxD16 d) s = .next { s with
    regs := { s.regs with ax := BitVec.ofInt 16 (s.regs.ax.toNat - (s.wordAt (translate s.segs.ds d)).toNat) }
    flags := subFlagsResult s (s.wordAt (translate s.segs.ds d))
    ip := s.opip + 4 }) ∧
  (∀ imm s, exec (.subAxImm16 imm) s = .next { s with
    regs := { s.regs with ax := BitVec.ofInt 16 (s.regs.ax.toNat - imm.toNat) }
    flags := subFlagsResult s imm
    ip := s.opip + 3 })

/-- R113, R114, R128, R129, R131 (D2, D5, D7, D32): a compare writes CF, ZF, SF, PF and IP only; 0x83 compares AX,
whatever its ModRM byte is, with the byte read as a signed number. -/
def Obligations.CompareAxWritesFlagsOnly : Prop :=
  (∀ s, exec .cmpAxBx s = .next { s with flags := subFlagsResult s s.regs.bx, ip := s.opip + 2 }) ∧
  (∀ d s, Fits (translate s.segs.ds d) 2 → exec (.cmpAxD16 d) s =
    .next { s with flags := subFlagsResult s (s.wordAt (translate s.segs.ds d)), ip := s.opip + 4 }) ∧
  (∀ m imm s, exec (.cmpAxImm8 m imm) s =
    .next { s with flags := subFlagsResult s (BitVec.ofInt 16 imm.toInt), ip := s.opip + 3 })

/-- R113, R130 (D2, D3, D32): the byte compare of AL writes CF, ZF, SF, PF and IP only. -/
def Obligations.CompareAlUsesTheByteResult : Prop :=
  ∀ imm s, exec (.cmpAlImm8 imm) s = .next { s with
    flags := withZspByte s.cfg (BitVec.ofInt 8 ((lowByte s.regs.ax).toNat - imm.toNat))
      { s.flags with carry := decide ((lowByte s.regs.ax).toNat < imm.toNat) }
    ip := s.opip + 2 }

/-- R128 (D6, D32): after `CMP AX, BX`, JA is taken exactly when AX > BX unsigned; a taken jump counts from the
instruction after JA. `t` is the state after the compare with the opcode of JA fetched. -/
def Obligations.JaAfterCmpTestsUnsignedGreater : Prop :=
  ∀ (s t : State) (rel : Byte), exec .cmpAxBx s = .next t → ∀ op, exec (.ja rel) (t.afterOpcode op) =
    .next { t.afterOpcode op with ip := if s.regs.bx.toNat < s.regs.ax.toNat
      then t.ip + 2 + BitVec.ofInt 16 rel.toInt else t.ip + 2 }

/-! ## Control transfer (42_control.md) -/

/-- R140 to R144 (D6): only IP changes; the signed displacement counts from the next instruction, modulo 65536. -/
def Obligations.ConditionalJumpsTestTheirFlags : Prop :=
  ∀ (rel : Byte) (s : State),
    let taken := BitVec.ofInt 16 ((s.opip.toNat : Int) + 2 + rel.toInt)
    let next := s.opip + 2
    exec (.jc rel) s = .next { s with ip := if s.flags.carry = true then taken else next } ∧
    exec (.jnc rel) s = .next { s with ip := if s.flags.carry = false then taken else next } ∧
    exec (.je rel) s = .next { s with ip := if s.flags.zero = true then taken else next } ∧
    exec (.jne rel) s = .next { s with ip := if s.flags.zero = false then taken else next } ∧
    exec (.ja rel) s =
      .next { s with ip := if s.flags.carry = false ∧ s.flags.zero = false then taken else next }

/-- R145, with its encoding: the displacement of 0xE9 counts from the opcode address, modulo 65536; with
JMP_NEAR_BASE = next instruction it counts from opip + 3. -/
def Obligations.JmpNearCountsFromItsOpcodeAddress : Prop :=
  (∀ c rel rest, decode c (0xE9 :: lowByte rel :: highByte rel :: rest) = .ok (.jmpRel16 rel, rest)) ∧
  (∀ (rel : Word) (s : State), exec (.jmpRel16 rel) s = .next { s with ip := match s.cfg.jmpNearBase with
    | .opcodeAddress => BitVec.ofNat 16 (s.opip.toNat + rel.toNat)
    | .nextInstruction => BitVec.ofNat 16 (s.opip.toNat + 3 + rel.toNat) })

/-- R132, R146 (the base is the spec's decision D6): 0xEB counts from the next instruction. -/
def Obligations.JmpShortCountsFromTheNextInstruction : Prop :=
  ∀ (rel : Byte) (s : State), exec (.jmpRel8 rel) s =
    .next { s with ip := BitVec.ofInt 16 ((s.opip.toNat : Int) + 2 + rel.toInt) }

/-- R147, R148 (D6): CALL pushes opip + 3 and jumps relative to it; RET pops IP. -/
def Obligations.CallPushesReturnAddressAndRetPopsIt : Prop :=
  (∀ rel s, Fits (below s 2) 2 → ∃ t, exec (.callRel16 rel) s = .next t ∧ StoresWord s t (below s 2) (s.opip + 3) ∧
    t = { s with
      regs := { s.regs with sp := s.regs.sp - 2 }
      mem := t.mem
      ip := BitVec.ofNat 16 (s.opip.toNat + 3 + rel.toNat) }) ∧
  (∀ s, Fits (above s 0) 2 → exec .ret s =
    .next { s with regs := { s.regs with sp := s.regs.sp + 2 }, ip := s.wordAt (above s 0) })

/-- R147: a RET right after a CALL, wherever its opcode is fetched, restores IP to the CALL's address + 3 and every
register. -/
def Obligations.RetAfterCallReturnsBehindTheCall : Prop :=
  ∀ rel s, Fits (below s 2) 2 → ∃ t, exec (.callRel16 rel) s = .next t ∧ ∀ op, ∃ u,
    exec .ret (t.afterOpcode op) = .next u ∧ u.ip = s.opip + 3 ∧ u.regs = s.regs ∧ u.segs = s.segs ∧
      u.running = s.running

/-! ## Stack and string instructions (43_stack_string.md) -/

/-- R160, R162: AX or CS is stored at the decremented SS:SP. -/
def Obligations.PushFormsStoreBelowSp : Prop :=
  ∀ s, Fits (below s 2) 2 →
    (∃ t, exec .pushAx s = .next t ∧ StoresWord s t (below s 2) s.regs.ax ∧
      t = { s with regs := { s.regs with sp := s.regs.sp - 2 }, mem := t.mem, ip := s.opip + 1 }) ∧
    (∃ t, exec .pushCs s = .next t ∧ StoresWord s t (below s 2) s.segs.cs ∧
      t = { s with regs := { s.regs with sp := s.regs.sp - 2 }, mem := t.mem, ip := s.opip + 1 })

/-- R58, R161, R163, R164, each with its encoding: the popped word goes to AX, DS or ES; no flag changes. Where the pop
does not fit SP and all else stay in the Halted state (R202; D10, D25, D35; log entry 1). -/
def Obligations.PopFormsLoadFromSp : Prop :=
  (∀ c rest, decode c (0x58 :: rest) = .ok (.popAx, rest) ∧ decode c (0x1F :: rest) = .ok (.popDs, rest) ∧
    decode c (0x07 :: rest) = .ok (.popEs, rest)) ∧
  (∀ s, Fits (above s 0) 2 →
    exec .popAx s = .next { s with
      regs := { s.regs with ax := s.wordAt (above s 0), sp := s.regs.sp + 2 }, ip := s.opip + 1 } ∧
    exec .popDs s = .next { s with
      regs := { s.regs with sp := s.regs.sp + 2 }, segs := { s.segs with ds := s.wordAt (above s 0) }
      ip := s.opip + 1 } ∧
    exec .popEs s = .next { s with
      regs := { s.regs with sp := s.regs.sp + 2 }, segs := { s.segs with es := s.wordAt (above s 0) }
      ip := s.opip + 1 }) ∧
  (∀ s, ¬ Fits (above s 0) 2 → ∀ i ∈ [Instr.popAx, .popDs, .popEs],
    ∃ h, exec i s = .next h ∧ FaultsAt s h (above s 0))

/-- R165, R166, each with its encoding: SI or DI rises by 1 modulo 65536; no flag changes. Where the byte does not fit
SI, DI and all else stay in the Halted state (R202; D10, D25; log entry 1). -/
def Obligations.StringFormsMoveOneByteUpwards : Prop :=
  (∀ c rest, decode c (0xAC :: rest) = .ok (.lodsb, rest) ∧ decode c (0xAA :: rest) = .ok (.stosb, rest)) ∧
  (∀ s, Fits (translate s.segs.ds s.regs.si) 1 → exec .lodsb s = .next { s with
    regs := { s.regs with
      ax := joinBytes (s.byteAt (translate s.segs.ds s.regs.si)) (highByte s.regs.ax)
      si := BitVec.ofNat 16 (s.regs.si.toNat + 1) }
    ip := s.opip + 1 }) ∧
  (∀ s, Fits (s.ea .stringDestination) 1 → ∃ t, exec .stosb s = .next t ∧
    StoresByte s t (s.ea .stringDestination) (lowByte s.regs.ax) ∧
    t = { s with
      regs := { s.regs with di := BitVec.ofNat 16 (s.regs.di.toNat + 1) }, mem := t.mem, ip := s.opip + 1 }) ∧
  (∀ s, ¬ Fits (translate s.segs.ds s.regs.si) 1 →
    ∃ h, exec .lodsb s = .next h ∧ FaultsAt s h (translate s.segs.ds s.regs.si)) ∧
  (∀ s, ¬ Fits (translate s.segs.es s.regs.di) 1 →
    ∃ h, exec .stosb s = .next h ∧ FaultsAt s h (translate s.segs.es s.regs.di))

/-! ## XOR, INC, DEC and MUL (44_logic_incdec_mul.md) -/

/-- R170, R171 (D2): the register is zeroed, ZF = 1, SF = 0, PF as of 0x00; CF and OF are unchanged. -/
def Obligations.XorZeroesItsRegister : Prop :=
  ∀ s,
    exec .xorAxAx s = .next { s with
      regs := { s.regs with ax := 0 }
      flags := { s.flags with zero := true, sign := false, parity := s.cfg.parityEvenIsOne }
      ip := s.opip + 2 } ∧
    exec .xorBxBx s = .next { s with
      regs := { s.regs with bx := 0 }
      flags := { s.flags with zero := true, sign := false, parity := s.cfg.parityEvenIsOne }
      ip := s.opip + 2 }

/-- R172, R173 (D2, D3, D7): the byte rises or falls by 1 modulo 256; CF, OF and AF are unchanged. -/
def Obligations.IncDecBumpTheByteAndKeepCarry : Prop :=
  ∀ d s, Fits (s.ea (.direct d)) 1 →
    (∃ t, exec (.incByteD16 d) s = .next t ∧
      let r := BitVec.ofNat 8 ((s.byteAt (s.ea (.direct d))).toNat + 1)
      StoresByte s t (s.ea (.direct d)) r ∧
      t = { s with flags := withZspByte s.cfg r s.flags, mem := t.mem, ip := s.opip + 4 }) ∧
    (∃ t, exec (.decByteD16 d) s = .next t ∧
      let r := BitVec.ofInt 8 ((s.byteAt (s.ea (.direct d))).toNat - 1)
      StoresByte s t (s.ea (.direct d)) r ∧
      t = { s with flags := withZspByte s.cfg r s.flags, mem := t.mem, ip := s.opip + 4 })

/-- R174, R175 (D2, D18): the product of two bytes, exact in AX. -/
def Obligations.MulPutsTheExactProductInAx : Prop :=
  (∀ s, exec .mulAl s = .next (mulResult s (lowByte s.regs.ax))) ∧
  (∀ s, Fits (translate s.segs.ds s.regs.bx) 1 →
    exec .mulByteBx s = .next (mulResult s (s.byteAt (translate s.segs.ds s.regs.bx)))) ∧
  (∀ a b : Byte, a.toNat * b.toNat < 65536)

/-! ## Ports and the keyboard (45_io.md, 60_exceptions.md) -/

/-- R180, R181, R224 to R226 (D13, D14, D15): one port read; IN AL keeps AH, IN AX clears it; only port 0x60 changes
the queue. -/
def Obligations.InReadsOnePort : Prop :=
  ∀ p s,
    exec (.inAlImm8 p) s = .next { s with
      regs := { s.regs with ax := joinBytes (portValue s p) (highByte s.regs.ax) }
      kbd := queueAfterRead s p
      ip := s.opip + 2 } ∧
    exec (.inAxImm8 p) s = .next { s with
      regs := { s.regs with ax := joinBytes (portValue s p) 0 }
      kbd := queueAfterRead s p
      ip := s.opip + 2 }

/-- R182, R183, R227 (D13, D14): one port write, of AL in both forms; a write to any port but 0x20 and 0x21 changes no
state but IP, and so does a value other than 0x20 to port 0x20. -/
def Obligations.OutWritesOnePort : Prop :=
  ∀ p s,
    exec (.outImm8Al p) s = .next { s with pic := picAfterWrite s p (lowByte s.regs.ax), ip := s.opip + 2 } ∧
    exec (.outImm8Ax p) s = .next { s with pic := picAfterWrite s p (lowByte s.regs.ax), ip := s.opip + 2 }

/-- R222 (D16, D17): `enqueue` writes at the tail and advances it, with no full check; with DROP_OLDEST the head of a
full queue advances first. No other state changes. -/
def Obligations.EnqueueWritesAtTheTail : Prop :=
  ∀ b s,
    (enqueue b s).kbd.slot s.kbd.tail = b ∧
    (∀ i, i ≠ s.kbd.tail → (enqueue b s).kbd.slot i = s.kbd.slot i) ∧
    (enqueue b s).kbd.tail = s.kbd.tail + 1 ∧
    (enqueue b s).kbd.head =
      (match s.cfg.kbdOverflow with
        | .naiveTail => s.kbd.head
        | .dropOldest => if s.kbd.tail + 1 = s.kbd.head then s.kbd.head + 1 else s.kbd.head) ∧
    (enqueue b s).kbd.status = s.kbd.status ∧
    enqueue b s = { s with kbd := (enqueue b s).kbd }

/-- R35, R222 to R224 (D16): up to 255 bytes enqueued into an empty queue are read back through port 0x60 in order,
and the queue is then empty; under NAIVE_TAIL a 256th byte makes the queue read as empty. -/
def Obligations.KeyboardQueueIsFirstInFirstOut : Prop :=
  (∀ (s : State) (bs : List Byte), s.kbd.head = s.kbd.tail → bs.length ≤ 255 →
    let t := bs.foldl (fun u b => enqueue b u) s
    (drain bs.length t.kbd).1 = bs ∧ (drain bs.length t.kbd).2.head = (drain bs.length t.kbd).2.tail) ∧
  (∀ (s : State) (bs : List Byte), s.kbd.head = s.kbd.tail → s.cfg.kbdOverflow = .naiveTail → bs.length = 256 →
    let t := bs.foldl (fun u b => enqueue b u) s
    t.kbd.head = t.kbd.tail ∧ t.kbd.read60 = (0, t.kbd))

/-! ## System instructions (46_system.md) -/

/-- R190, R212 (D11, D12): with IF = 1 and the three pushes in bounds, INT enters vector `n` with return address opip
+ 2 and leaves IRR alone; with IF = 0 it moves IP past its vector byte and changes nothing else. -/
def Obligations.IntEntersItsVectorOrIsSkipped : Prop :=
  (∀ n s, s.flags.interrupt = true → Fits (below s 2) 2 → Fits (below s 4) 2 → Fits (below s 6) 2 →
    ∃ t, exec (.intImm8 n) s = .next t ∧ Enters s t n (s.opip + 2) s.pic.irr) ∧
  (∀ n s, s.flags.interrupt = false → exec (.intImm8 n) s = .next { s with ip := s.opip + 2 })

/-- R191, R30 (D31): IRET pops IP, CS and FLAGS, takes all seven flags from bits 6:0 and clears ISR. -/
def Obligations.IretRestoresIpCsFlagsAndClearsIsr : Prop :=
  ∀ s, Fits (above s 0) 2 → Fits (above s 2) 2 → Fits (above s 4) 2 →
    ∃ t, exec .iret s = .next t ∧ packed t.flags = (s.wordAt (above s 4)).toNat % 128 ∧
      t = { s with
        regs := { s.regs with sp := s.regs.sp + 6 }
        segs := { s.segs with cs := s.wordAt (above s 2) }
        ip := s.wordAt (above s 0)
        flags := t.flags
        pic := { s.pic with isr := 0 } }

/-- R191: an IRET in a state that SS:SP and the three stacked words reach unchanged from an INT's entry restores the
interrupted CS, FLAGS and SP, clears ISR, and returns to INT's return address opip + 2 (R190, R213; D11). -/
def Obligations.IretUndoesInterruptEntry : Prop :=
  ∀ n s, s.flags.interrupt = true → Fits (below s 2) 2 → Fits (below s 4) 2 → Fits (below s 6) 2 →
    ∃ t, exec (.intImm8 n) s = .next t ∧
      ∀ t', t'.regs.sp = t.regs.sp → t'.segs.ss = t.segs.ss →
        (∀ k ∈ [(2 : Word), 4, 6], t'.wordAt (below s k) = t.wordAt (below s k)) →
        ∃ u, exec .iret t' = .next u ∧ u.ip = s.opip + 2 ∧ u.segs.cs = s.segs.cs ∧ u.flags = s.flags ∧
          u.regs.sp = s.regs.sp ∧ u.pic.isr = 0

/-- R192, R194, and STI's effect (R193), each with its encoding: CLI and STI write IF; HLT halts without a fault, and
no later step changes anything. -/
def Obligations.CliStiWriteIfAndHltHalts : Prop :=
  (∀ c rest, decode c (0xFA :: rest) = .ok (.cli, rest) ∧ decode c (0xFB :: rest) = .ok (.sti, rest) ∧
    decode c (0xF4 :: rest) = .ok (.hlt, rest)) ∧
  (∀ s, exec .cli s = .next { s with flags := { s.flags with interrupt := false }, ip := s.opip + 1 } ∧
    exec .sti s = .next { s with flags := { s.flags with interrupt := true }, ip := s.opip + 1 } ∧
    exec .hlt s = .next { s with running := false, ip := s.opip + 1 } ∧
    ∀ n, core.run n { s with running := false, ip := s.opip + 1 } = .next { s with running := false, ip := s.opip + 1 })

/-! ## Faults (60_exceptions.md) -/

/-- R202, R203 (D10, D25): where a data operand does not fit, the instruction halts with the operand's address in its
diagnostic, and changes nothing else: IP stays opip + 1. -/
def Obligations.DataOperandOutsideMemoryHalts : Prop :=
  (∀ d s, ¬ Fits (translate s.segs.ds d) 2 →
    ∀ i ∈ [Instr.movD16Ax d, .movAxD16 d, .movAxA16 d, .addD16Ax d, .addAxD16 d, .subAxD16 d, .cmpAxD16 d],
      exec i s = .next (haltedByMemory s (translate s.segs.ds d) (s.ip - 1))) ∧
  (∀ d imm s, ¬ Fits (translate s.segs.ds d) 2 →
    exec (.movWordD16Imm16 d imm) s = .next (haltedByMemory s (translate s.segs.ds d) (s.ip - 1))) ∧
  (∀ d s, ¬ Fits (translate s.segs.ds d) 1 → ∀ i ∈ [Instr.movAlA16 d, .incByteD16 d, .decByteD16 d],
    exec i s = .next (haltedByMemory s (translate s.segs.ds d) (s.ip - 1))) ∧
  (∀ d imm s, ¬ Fits (translate s.segs.ds d) 1 →
    exec (.movByteD16Imm8 d imm) s = .next (haltedByMemory s (translate s.segs.ds d) (s.ip - 1))) ∧
  (∀ imm s, ¬ Fits (translate s.segs.ds s.regs.si) 2 → ∀ i ∈ [Instr.movWordSiImm16 imm, .addAxSi],
    exec i s = .next (haltedByMemory s (translate s.segs.ds s.regs.si) (s.ip - 1))) ∧
  (∀ s, ¬ Fits (translate s.segs.ds s.regs.bx) 1 →
    exec .mulByteBx s = .next (haltedByMemory s (translate s.segs.ds s.regs.bx) (s.ip - 1))) ∧
  (∀ s, ¬ Fits (translate s.segs.ds s.regs.si) 1 →
    exec .lodsb s = .next (haltedByMemory s (translate s.segs.ds s.regs.si) (s.ip - 1))) ∧
  (∀ s, ¬ Fits (translate s.segs.es s.regs.di) 1 →
    exec .stosb s = .next (haltedByMemory s (translate s.segs.es s.regs.di) (s.ip - 1)))

/-- R57, R58, R191, R202 (D10, D25, D35): a push that faults leaves SP decremented, a pop that faults leaves SP alone;
where the second or the third pop of IRET faults, the pops before it have moved SP, and nothing else has changed. -/
def Obligations.StackFaultHaltsWithSpAsTheRulesSay : Prop :=
  (∀ rel s, ¬ Fits (below s 2) 2 → ∀ i ∈ [Instr.pushAx, .pushCs, .callRel16 rel], exec i s =
    .next (haltedByMemory { s with regs := { s.regs with sp := s.regs.sp - 2 } } (below s 2) (s.ip - 1))) ∧
  (∀ s, ¬ Fits (above s 0) 2 → ∀ i ∈ [Instr.popAx, .popDs, .popEs, .ret, .iret],
    exec i s = .next (haltedByMemory s (above s 0) (s.ip - 1))) ∧
  (∀ s, Fits (above s 0) 2 → ¬ Fits (above s 2) 2 → exec .iret s =
    .next (haltedByMemory { s with regs := { s.regs with sp := s.regs.sp + 2 } } (above s 2) (s.ip - 1))) ∧
  (∀ s, Fits (above s 0) 2 → Fits (above s 2) 2 → ¬ Fits (above s 4) 2 → exec .iret s =
    .next (haltedByMemory { s with regs := { s.regs with sp := s.regs.sp + 4 } } (above s 4) (s.ip - 1)))

/-- R55, R202, R212 (D10, D25, D35): an INT whose first, second or third push faults halts with SP decremented once,
twice or three times and the earlier pushes standing; every other byte of memory, CS, IP, the flags, ISR and all else
are unchanged. -/
def Obligations.IntFaultKeepsEarlierPushes : Prop :=
  ∀ n s, s.flags.interrupt = true → ¬ (Fits (below s 2) 2 ∧ Fits (below s 4) 2 ∧ Fits (below s 6) 2) →
    ∃ t k, exec (.intImm8 n) s = .next t ∧ EntryFaults s t k (s.ip - 1)

/-! ## Frames, over every instruction -/

/-- An instruction changes no general register but those its rule writes. -/
def Obligations.RegistersFrame : Prop :=
  ∀ i s t, exec i s = .next t → ∀ r, r ∉ (writes s i).regs → t.reg r = s.reg r

/-- R24: an instruction changes no segment register but those its rule writes. -/
def Obligations.SegmentRegistersFrame : Prop :=
  ∀ i s t, exec i s = .next t → ∀ r, r ∉ (writes s i).segs → t.seg r = s.seg r

/-- R31 (D2): OF and AF are written by IRET only, and each other flag by the instructions R31 names only. -/
def Obligations.FlagsFrame : Prop :=
  ∀ i s t, exec i s = .next t →
    (i ≠ .iret → t.flags.overflow = s.flags.overflow ∧ t.flags.auxiliary = s.flags.auxiliary) ∧
    ((writes s i).interrupt = false → t.flags.interrupt = s.flags.interrupt) ∧
    ((writes s i).carry = false → t.flags.carry = s.flags.carry) ∧
    ((writes s i).zsp = false →
      t.flags.zero = s.flags.zero ∧ t.flags.sign = s.flags.sign ∧ t.flags.parity = s.flags.parity)

/-- Every byte of memory outside those the instruction stores to reads as before; for a form that stores nothing
`bytes` is empty, so every byte does. -/
def Obligations.MemoryFrame : Prop :=
  ∀ i s t, exec i s = .next t → ∀ a, a ∉ (writes s i).bytes → t.byteAt a = s.byteAt a

/-- R216, R224 (D14): no instruction writes IRR; IMR is written by OUT 0x21 only, ISR by INT taken, IRET and an EOI
only; the keyboard queue changes by a read of port 0x60 only, and then its slots do not. -/
def Obligations.DeviceFrame : Prop :=
  ∀ i s t, exec i s = .next t →
    t.pic.irr = s.pic.irr ∧
    (i ∉ [Instr.outImm8Al 0x21, .outImm8Ax 0x21] → t.pic.imr = s.pic.imr) ∧
    ((∀ n, i ≠ .intImm8 n) → i ∉ [Instr.iret, .outImm8Al 0x20, .outImm8Ax 0x20] → t.pic.isr = s.pic.isr) ∧
    (i ∉ [Instr.inAlImm8 0x60, .inAxImm8 0x60] → t.kbd = s.kbd) ∧
    t.kbd.buf = s.kbd.buf ∧ t.kbd.tail = s.kbd.tail

/-- R37, R194, R201, R202 (D10, D25): the engine goes on, or HLT stops it with `diag` untouched, or a MemoryFault past
the end of memory does, with IP left at opip + 1 and the diagnostic of R201. `last_instruction` and the parameters
(log entry 2) never change. -/
def Obligations.EngineFrame : Prop :=
  ∀ i s t, exec i s = .next t →
    t.lastInstruction = s.lastInstruction ∧ t.cfg = s.cfg ∧
    ((i ≠ .hlt ∧ t.running = s.running ∧ t.diag = s.diag) ∨
      (i = .hlt ∧ t.running = false ∧ t.diag = s.diag) ∨
      (i ≠ .hlt ∧ t.running = false ∧ t.ip = s.ip ∧ ∃ a, 0xFFFFF ≤ a ∧
        t.diag = some ⟨.memoryFault, s.lastInstruction, s.segs.cs, s.ip - 1, some a⟩))

/-! ## Encoding (30_encoding.md) -/

/-- R84, R85 (which form 0xF6 encodes is log entry 16): decoding the bytes of any well-formed instruction, whatever
follows them, gives it back, for every operand and every value of the parameters. -/
def Obligations.DecodeOfEncodeIsTheInstruction : Prop :=
  ∀ (c : Config) (i : Instr) (rest : List Byte), i.wellFormed c = true → decode c (encode i ++ rest) = .ok (i, rest)

/-- R84, R85 (the ModRM byte of 0x83 is an operand by log entry 13): with MUL_F6_MODE = BY_MODRM, bytes that decode
are the encoding of the instruction followed by the rest: no two byte sequences stand for one instruction. -/
def Obligations.EncodeOfDecodeIsTheBytes : Prop :=
  ∀ (c : Config) (bs rest : List Byte) (i : Instr), c.mulF6Mode = .byModrm → decode c bs = .ok (i, rest) →
    encode i ++ rest = bs ∧ i.wellFormed c = true

/-- R84, R23: words written out from the spec's encodings, one of each family (`B4 56`, `C7 06 24 00 20 01`, `83 F8
FF`, `E9 00 01`, `AA`, `FE 0E 00 02`, `E4 60`, `CD 21`). -/
def Obligations.SpecWordsDecode : Prop :=
  decode defaultConfig [0b10110100, 0x56] = .ok (.movR8Imm8 .ah 0x56, []) ∧
  decode defaultConfig [0b11000111, 0b00000110, 0x24, 0x00, 0x20, 0x01] = .ok (.movWordD16Imm16 0x0024 0x0120, []) ∧
  decode defaultConfig [0b10000011, 0b11111000, 0xFF] = .ok (.cmpAxImm8 0b11111000 0xFF, []) ∧
  decode defaultConfig [0b11101001, 0x00, 0x01] = .ok (.jmpRel16 0x0100, []) ∧
  decode defaultConfig [0b10101010] = .ok (.stosb, []) ∧
  decode defaultConfig [0b11111110, 0b00001110, 0x00, 0x02] = .ok (.decByteD16 0x0200, []) ∧
  decode defaultConfig [0b11100100, 0x60] = .ok (.inAlImm8 0x60, []) ∧
  decode defaultConfig [0b11001101, 0x21] = .ok (.intImm8 0x21, [])

/-- R174 (D18): in VARIANT_AL_AL and VARIANT_AL_MEM_BX the value of 0xF6's ModRM is ignored. -/
def Obligations.MulVariantsIgnoreModrm : Prop :=
  ∀ (c : Config) (m : Byte) (rest : List Byte),
    (c.mulF6Mode = .variantAlAl → decode c (0xF6 :: m :: rest) = .ok (.mulAl, rest)) ∧
    (c.mulF6Mode = .variantAlMemBx → decode c (0xF6 :: m :: rest) = .ok (.mulByteBx, rest))

/-- R199, R205 (D10, D25, D29): an opcode byte outside R84 halts the engine, with IP = opip + 1 and `last_instruction`
the byte. -/
def Obligations.UnrecognizedOpcodeHalts : Prop :=
  ∀ s s1 op, FetchesOpcode s s1 op → op ∉ listedOpcodes →
    step s = .next { s1 with
      lastInstruction := op
      ip := s1.ip + 1
      running := false
      diag := some ⟨.unrecognizedOpcode, op, s1.segs.cs, s1.ip, none⟩ }

/-- R83, R204 (D4, D5, D10, D18, D25): a ModRM value that its opcode does not accept halts the engine right after its
fetch, whatever follows, for every value of CMP83_MATCH and MUL_F6_MODE (log entry 13). -/
def Obligations.UnsupportedModrmHalts : Prop :=
  ∀ s s1 op m, FetchesOpcode s s1 op → op ∈ modrmOpcodes → FetchesModrm s1 m → acceptsModrm s.cfg op m = false →
    step s = .next { s1 with
      lastInstruction := op
      ip := s1.ip + 1
      running := false
      diag := some ⟨.unsupportedEncoding, op, s1.segs.cs, s1.ip, none⟩ }

/-! ## The step (30_encoding.md R80, 60_exceptions.md R208, R211) -/

/-- R37, R80: a halted engine's step, and any number of them, changes nothing. -/
def Obligations.HaltedEngineIgnoresSteps : Prop :=
  ∀ s : State, s.running = false → step s = .next s ∧ ∀ n, core.run n s = .next s

/-- Every step answers a next state: nothing is refused, and every fault is a Halted state of the machine (the model's
reading of R200 to R202, log entry 1). -/
def Obligations.EveryStepAnswersANextState : Prop := ∀ s, ∃ t, step s = .next t

/-- R80, R82 (D9, D23; the convention of log entry 5): when the bytes of a well-formed instruction lie at CS:IP, after
the interrupt service, the step is that instruction's meaning, in the state with the opcode recorded and IP past the
opcode byte. -/
def Obligations.StepRunsTheInstructionAtCsIp : Prop :=
  ∀ s s1 i op, s.running = true → serviceInterrupts s = .ok s1 → i.wellFormed s.cfg = true → CodeAt s1 i →
    (encode i)[0]? = some op → step s = exec i { s1 with lastInstruction := op, ip := s1.ip + 1 }

/-- R80, R82, R202, R203, R208 (D9, D10, D25): an opcode fetch past the end of memory halts with IP and
`last_instruction` unchanged; one of a field at offset 1, 2 or 4 halts with IP = opip + 1. The ModRM byte is accepted,
and the field at offset 2 fits, where a later field is fetched. -/
def Obligations.FetchOutsideMemoryHalts : Prop :=
  (∀ s s1, s.running = true → serviceInterrupts s = .ok s1 → ¬ Fits (translate s1.segs.cs s1.ip) 1 →
    step s = .next (haltedByMemory s1 (translate s1.segs.cs s1.ip) s1.ip)) ∧
  (∀ s s1 op, FetchesOpcode s s1 op →
    ((op ∈ byteAtOffsetOne ∨ op ∈ modrmOpcodes) ∧ ¬ Fits (fetchAddress s1.segs.cs s1.ip 1) 1) ∨
      (op ∈ wordAtOffsetOne ∧ ¬ Fits (fetchAddress s1.segs.cs s1.ip 1) 2) →
    step s = .next (haltedByField s1 op 1)) ∧
  (∀ s s1 op m, FetchesOpcode s s1 op → FetchesModrm s1 m →
    ((op, m) ∈ wordAtOffsetTwo ∧ ¬ Fits (fetchAddress s1.segs.cs s1.ip 2) 2) ∨
      (op = 0x83 ∧ acceptsModrm s.cfg op m = true ∧ ¬ Fits (fetchAddress s1.segs.cs s1.ip 2) 1) →
    step s = .next (haltedByField s1 op 2)) ∧
  (∀ s s1 op m, FetchesOpcode s s1 op → FetchesModrm s1 m → Fits (fetchAddress s1.segs.cs s1.ip 2) 2 →
    (op = 0xC6 ∧ m = 0x06 ∧ ¬ Fits (fetchAddress s1.segs.cs s1.ip 4) 1) ∨
      (op = 0xC7 ∧ m = 0x06 ∧ ¬ Fits (fetchAddress s1.segs.cs s1.ip 4) 2) →
    step s = .next (haltedByField s1 op 4))

/-- R211 (D24): the service polls the keyboard; it enters vector 9, with the address of the unfetched instruction and
IRR bit 1 cleared, exactly where IRQ1 is requested, unmasked and enabled; ISR plays no part. Where a push of that entry
does not fit, the step halts with the earlier pushes standing, and IP, IRR bit 1 and IF as they were (R57, R201, R202;
D10, D25, D35; log entry 1). -/
def Obligations.InterruptServiceEntersVectorNine : Prop :=
  (∀ s, ¬ TakesIrq1 s → serviceInterrupts s = .ok (polled s)) ∧
  (∀ s, TakesIrq1 s → Fits (below s 2) 2 → Fits (below s 4) 2 → Fits (below s 6) 2 →
    ∃ t, serviceInterrupts s = .ok t ∧ Enters (polled s) t 9 s.ip ((polled s).pic.irr &&& 0xFD)) ∧
  (∀ s, s.running = true → TakesIrq1 s → ¬ (Fits (below s 2) 2 ∧ Fits (below s 4) 2 ∧ Fits (below s 6) 2) →
    ∃ t k, step s = .next t ∧ EntryFaults (polled s) t k s.ip ∧ t.pic.irr.getLsbD 1 = true ∧
      t.flags.interrupt = true)

/-- R208 (D23): an INT that is the first instruction of the handler, in the step that enters vector 9, is skipped, IP
moving past its vector byte (R190; D11, D12). -/
def Obligations.IntRightAfterVectorNineIsSkipped : Prop :=
  ∀ s s1 n, s.running = true → TakesIrq1 s → serviceInterrupts s = .ok s1 → CodeAt s1 (.intImm8 n) →
    step s = .next { s1 with lastInstruction := 0xCD, ip := s1.ip + 2 }

/-- R33, R211 (D24): ISR decides nothing: a step from the same state with another ISR ends in the same state but for
ISR. -/
def Obligations.IsrDecidesNothing : Prop :=
  ∀ (s : State) (x : Byte) (t : State), step s = .next t →
    ∃ y, step { s with pic := { s.pic with isr := x } } = .next { t with pic := { t.pic with isr := y } }

/-- The invariant of `State.Inv` is kept by every step, from every state that meets it. Its first two parts are the
model's own canonical forms (log entries 6 and 7), the others R32, R33, R36 (D17) and R201. -/
def Obligations.EveryStepKeepsTheInvariant : Prop := ∀ s t, s.Inv → step s = .next t → t.Inv

/-! ## Reset and firmware (10_state.md R41, 70_reset_and_hazards.md) -/

/-- The state after reset meets the invariant. -/
def Obligations.ResetMeetsTheInvariant : Prop := State.reset.Inv

/-- R41 (D20, D21): every register, flag, PIC register, queue field and engine field, and every byte of memory, at
reset. -/
def Obligations.ResetValues : Prop :=
  State.reset.regs = ⟨0, 0, 0, 0, 0, 0, 0, 0x7000⟩ ∧ State.reset.segs = ⟨0, 0, 0, 0⟩ ∧ State.reset.ip = 0x0100 ∧
  State.reset.flags = ⟨false, false, false, false, false, false, true⟩ ∧ State.reset.pic = ⟨0x00, 0x00, 0xFD⟩ ∧
  (∀ i, State.reset.kbd.slot i = 0x00) ∧ State.reset.kbd.head = 0 ∧ State.reset.kbd.tail = 0 ∧
  State.reset.kbd.status = 0x00 ∧ State.reset.running = true ∧ State.reset.lastInstruction = 0x00 ∧
  State.reset.diag = none ∧
  (∀ n : Byte, State.reset.wordAt (4 * n.toNat) = 0x0000 ∧ State.reset.wordAt (4 * n.toNat + 2) = 0x0100) ∧
  (∀ i, i < 2000 → State.reset.byteAt (0xB8000 + 2 * i) = 0x20 ∧
    State.reset.byteAt (0xB8000 + 2 * i + 1) = State.reset.cfg.videoFillAttr) ∧
  (∀ a, 0x400 ≤ a → ¬ (0xB8000 ≤ a ∧ a ≤ 0xB8F9F) → State.reset.byteAt a = 0x00)

/-- R243 (D22, D38): a firmware load copies its blob to 0x00100 and up and changes nothing else; one over 0xFFF00
bytes is refused and changes nothing. -/
def Obligations.FirmwareLoadCopiesTheBlob : Prop :=
  (∀ blob s, blob.length ≤ 0xFFF00 →
    (∀ k b, blob[k]? = some b → (loadFirmware blob s).byteAt (0x100 + k) = b) ∧
    (∀ a, a < 0x100 ∨ 0x100 + blob.length ≤ a → (loadFirmware blob s).byteAt a = s.byteAt a) ∧
    loadFirmware blob s = { s with mem := (loadFirmware blob s).mem } ∧
    (s.Inv → (loadFirmware blob s).Inv)) ∧
  (∀ blob s, 0xFFF00 < blob.length → loadFirmware blob s = s)
end

