-- ==== Sys2Proof/Laws/Bits.lean ====
section
/-! SUPPORT. Byte order: a word and its two bytes determine each other (20_memory.md R56). -/

namespace Sys2Proof.Machine

theorem getLsbD_joinBytes (lo hi : Byte) (i : Nat) :
    (joinBytes lo hi).getLsbD i = if i < 8 then lo.getLsbD i else hi.getLsbD (i - 8) := by
  show (hi ++ lo).getLsbD i = _
  rw [BitVec.getLsbD_append]

@[simp] theorem lowByte_joinBytes (lo hi : Byte) : lowByte (joinBytes lo hi) = lo := by
  apply BitVec.eq_of_getLsbD_eq
  intro i h
  simp [lowByte, getLsbD_joinBytes, h]

@[simp] theorem highByte_joinBytes (lo hi : Byte) : highByte (joinBytes lo hi) = hi := by
  apply BitVec.eq_of_getLsbD_eq
  intro i h
  simp [highByte, getLsbD_joinBytes, h]

@[simp] theorem joinBytes_lowByte_highByte (w : Word) : joinBytes (lowByte w) (highByte w) = w := by
  apply BitVec.eq_of_getLsbD_eq
  intro i h
  simp only [getLsbD_joinBytes, lowByte, highByte, BitVec.getLsbD_extractLsb']
  split
  · rename_i h8; simp [h8]
  · rename_i h8
    have : 8 + (i - 8) = i := by omega
    simp [this, show i - 8 < 8 by omega]

end Sys2Proof.Machine
end

