-- ==== Sys2Proof/Laws/Cells.lean ====
section
/-! SUPPORT. Sparse byte stores: a read after a write, and the canonical form, for any default. -/

namespace Sys2Proof.Machine

variable {dflt : Nat → Byte}

theorem cellGet_insert (k a : Nat) (v : Byte) (cs : List Host.Cell) (hk : ∀ c ∈ cs, c.1 ≠ k) :
    cellGet dflt a (cellInsert k v cs) = if a = k then v else cellGet dflt a cs := by
  induction cs with
  | nil => simp [cellInsert, cellGet, eq_comm]
  | cons c cs ih =>
    have hc := hk c (by simp)
    have ih := ih fun d hd => hk d (by simp [hd])
    simp only [cellInsert]
    split
    · simp [cellGet, eq_comm]
    · simp only [cellGet, ih]
      split
      · rw [if_neg (by omega)]
      · rfl

theorem cellGet_filter_ne (k a : Nat) (cs : List Host.Cell) :
    cellGet dflt a (cs.filter fun c => c.1 != k) = if a = k then dflt k else cellGet dflt a cs := by
  induction cs with
  | nil => simp only [List.filter_nil, cellGet]; split <;> simp_all
  | cons c cs ih =>
    by_cases hc : c.1 = k
    · rw [List.filter_cons_of_neg (by simp [hc]), ih]
      simp only [cellGet]
      split
      · rfl
      · rw [if_neg (by omega)]
    · rw [List.filter_cons_of_pos (by simp [hc])]
      simp only [cellGet, ih]
      split
      · rw [if_neg (by omega)]
      · rfl

/-- A store reads back at its own address and leaves every other address alone. -/
theorem cellGet_set (k a : Nat) (v : Byte) (cs : List Host.Cell) :
    cellGet dflt a (cellSet dflt k v cs) = if a = k then v else cellGet dflt a cs := by
  simp only [cellSet]
  split
  · rename_i h; rw [cellGet_filter_ne, h]
  · rw [cellGet_insert _ _ _ _ (by simp), cellGet_filter_ne]
    split <;> rfl

/-- The canonical form, one entry at a time. -/
theorem cellsWf_cons {bound : Nat} {c : Host.Cell} {cs : List Host.Cell} :
    cellsWf dflt bound (c :: cs) = true ↔
      c.1 < bound ∧ c.2 ≠ dflt c.1 ∧ (∀ d ∈ cs, c.1 < d.1) ∧ cellsWf dflt bound cs = true := by
  simp [cellsWf, and_assoc]

theorem cellsWf_filter {bound : Nat} (p : Host.Cell → Bool) {cs : List Host.Cell}
    (h : cellsWf dflt bound cs = true) : cellsWf dflt bound (cs.filter p) = true := by
  induction cs with
  | nil => rfl
  | cons c cs ih =>
    obtain ⟨hb, hd, hlt, hcs⟩ := cellsWf_cons.mp h
    rw [List.filter_cons]
    split
    · exact cellsWf_cons.mpr ⟨hb, hd, fun d hd => hlt d (List.mem_of_mem_filter hd), ih hcs⟩
    · exact ih hcs

theorem mem_cellInsert {k : Nat} {v : Byte} {cs : List Host.Cell} {d : Host.Cell}
    (h : d ∈ cellInsert k v cs) : d = (k, v) ∨ d ∈ cs := by
  induction cs with
  | nil => simpa [cellInsert] using h
  | cons c cs ih =>
    simp only [cellInsert] at h
    split at h
    · simpa using h
    · rcases List.mem_cons.mp h with h | h
      · simp [h]
      · rcases ih h with h | h <;> simp [h]

theorem cellsWf_insert {bound k : Nat} {v : Byte} {cs : List Host.Cell} (hb : k < bound) (hv : v ≠ dflt k)
    (hk : ∀ c ∈ cs, c.1 ≠ k) (h : cellsWf dflt bound cs = true) :
    cellsWf dflt bound (cellInsert k v cs) = true := by
  induction cs with
  | nil => exact cellsWf_cons.mpr ⟨hb, hv, by simp, rfl⟩
  | cons c cs ih =>
    obtain ⟨hcb, hcd, hlt, hcs⟩ := cellsWf_cons.mp h
    have hck := hk c (by simp)
    simp only [cellInsert]
    split
    · rename_i hlt'
      refine cellsWf_cons.mpr ⟨hb, hv, ?_, h⟩
      rintro d (_ | ⟨_, hd⟩)
      · exact hlt'
      · exact hlt'.trans (hlt d hd)
    · refine cellsWf_cons.mpr ⟨hcb, hcd, ?_, ih (fun d hd => hk d (by simp [hd])) hcs⟩
      intro d hd
      rcases mem_cellInsert hd with rfl | hd
      · show c.1 < k; omega
      · exact hlt d hd

/-- A store below the bound keeps the canonical form. -/
theorem cellsWf_set {bound k : Nat} (v : Byte) {cs : List Host.Cell} (hb : k < bound)
    (h : cellsWf dflt bound cs = true) : cellsWf dflt bound (cellSet dflt k v cs) = true := by
  simp only [cellSet]
  split
  · exact cellsWf_filter _ h
  · rename_i hv
    exact cellsWf_insert hb hv (by simp) (cellsWf_filter _ h)

end Sys2Proof.Machine
end

