-- ==== Sys2Proof/Laws/Decode.lean ====
section
/-! SUPPORT. What the decoder does with opcode 0x83, the one opcode whose ModRM rule a parameter gives. -/

namespace Sys2Proof

open Sys2Proof.Machine

theorem rowsFor_cmp83 (c : Config) :
    rowsFor c 0x83 = [⟨0xFF, 0x83, some .cmp83, .opMI8, fun f => .cmpAxImm8 f.m f.b⟩] := by
  obtain ⟨p, b, q, j, mode, k, v⟩ := c
  cases mode <;> rfl

/-- Opcode 0x83 fetches its ModRM byte, then, where that matches CMP83_MATCH, its imm8 (R83, R131). -/
theorem decodeFrom_cmp83 {ε : Type} (c : Config) (f8 : Nat → Except ε Byte) (f16 : Nat → Except ε Word)
    (reject : DecodeError → ε) :
    decodeFrom c f8 f16 reject 0x83 = (do
      let m ← f8 1
      if modrmMatches c.cmp83Match m then do
        let b ← f8 2
        .ok (.cmpAxImm8 m b)
      else .error (reject (.unsupportedEncoding m))) := by
  unfold decodeFrom
  rw [rowsFor_cmp83]
  cases f8 1 with
  | error e => rfl
  | ok m =>
    cases h : modrmMatches c.cmp83Match m <;>
      simp only [bind, Except.bind, List.find?, Row.acceptsModrm, h]
    · rfl
    · simp only [Format.fetchFields]
      cases f8 2 <;> rfl

end Sys2Proof
end

