-- ==== Sys2Proof/Laws/State.lean ====
section
/-! SUPPORT. What each named update of the state leaves unchanged, and what it writes: one lemma per field per update. -/

namespace Sys2Proof.Machine

variable (s : State)

/-! ## `setReg` -/

@[simp] theorem State.setReg_segs (r : Reg16) (v : Word) : (s.setReg r v).segs = s.segs := rfl
@[simp] theorem State.setReg_ip (r : Reg16) (v : Word) : (s.setReg r v).ip = s.ip := rfl
@[simp] theorem State.setReg_flags (r : Reg16) (v : Word) : (s.setReg r v).flags = s.flags := rfl
@[simp] theorem State.setReg_pic (r : Reg16) (v : Word) : (s.setReg r v).pic = s.pic := rfl
@[simp] theorem State.setReg_kbd (r : Reg16) (v : Word) : (s.setReg r v).kbd = s.kbd := rfl
@[simp] theorem State.setReg_running (r : Reg16) (v : Word) : (s.setReg r v).running = s.running := rfl
@[simp] theorem State.setReg_lastInstruction (r : Reg16) (v : Word) : (s.setReg r v).lastInstruction = s.lastInstruction := rfl
@[simp] theorem State.setReg_diag (r : Reg16) (v : Word) : (s.setReg r v).diag = s.diag := rfl
@[simp] theorem State.setReg_mem (r : Reg16) (v : Word) : (s.setReg r v).mem = s.mem := rfl
@[simp] theorem State.setReg_cfg (r : Reg16) (v : Word) : (s.setReg r v).cfg = s.cfg := rfl

/-! ## `setSeg` -/

@[simp] theorem State.setSeg_regs (r : SegReg) (v : Word) : (s.setSeg r v).regs = s.regs := rfl
@[simp] theorem State.setSeg_ip (r : SegReg) (v : Word) : (s.setSeg r v).ip = s.ip := rfl
@[simp] theorem State.setSeg_flags (r : SegReg) (v : Word) : (s.setSeg r v).flags = s.flags := rfl
@[simp] theorem State.setSeg_pic (r : SegReg) (v : Word) : (s.setSeg r v).pic = s.pic := rfl
@[simp] theorem State.setSeg_kbd (r : SegReg) (v : Word) : (s.setSeg r v).kbd = s.kbd := rfl
@[simp] theorem State.setSeg_running (r : SegReg) (v : Word) : (s.setSeg r v).running = s.running := rfl
@[simp] theorem State.setSeg_lastInstruction (r : SegReg) (v : Word) : (s.setSeg r v).lastInstruction = s.lastInstruction := rfl
@[simp] theorem State.setSeg_diag (r : SegReg) (v : Word) : (s.setSeg r v).diag = s.diag := rfl
@[simp] theorem State.setSeg_mem (r : SegReg) (v : Word) : (s.setSeg r v).mem = s.mem := rfl
@[simp] theorem State.setSeg_cfg (r : SegReg) (v : Word) : (s.setSeg r v).cfg = s.cfg := rfl

/-! ## `setIp` -/

@[simp] theorem State.setIp_regs (v : Word) : (s.setIp v).regs = s.regs := rfl
@[simp] theorem State.setIp_segs (v : Word) : (s.setIp v).segs = s.segs := rfl
@[simp] theorem State.setIp_flags (v : Word) : (s.setIp v).flags = s.flags := rfl
@[simp] theorem State.setIp_pic (v : Word) : (s.setIp v).pic = s.pic := rfl
@[simp] theorem State.setIp_kbd (v : Word) : (s.setIp v).kbd = s.kbd := rfl
@[simp] theorem State.setIp_running (v : Word) : (s.setIp v).running = s.running := rfl
@[simp] theorem State.setIp_lastInstruction (v : Word) : (s.setIp v).lastInstruction = s.lastInstruction := rfl
@[simp] theorem State.setIp_diag (v : Word) : (s.setIp v).diag = s.diag := rfl
@[simp] theorem State.setIp_mem (v : Word) : (s.setIp v).mem = s.mem := rfl
@[simp] theorem State.setIp_cfg (v : Word) : (s.setIp v).cfg = s.cfg := rfl

/-! ## `setFlags` -/

@[simp] theorem State.setFlags_regs (f : Flags) : (s.setFlags f).regs = s.regs := rfl
@[simp] theorem State.setFlags_segs (f : Flags) : (s.setFlags f).segs = s.segs := rfl
@[simp] theorem State.setFlags_ip (f : Flags) : (s.setFlags f).ip = s.ip := rfl
@[simp] theorem State.setFlags_pic (f : Flags) : (s.setFlags f).pic = s.pic := rfl
@[simp] theorem State.setFlags_kbd (f : Flags) : (s.setFlags f).kbd = s.kbd := rfl
@[simp] theorem State.setFlags_running (f : Flags) : (s.setFlags f).running = s.running := rfl
@[simp] theorem State.setFlags_lastInstruction (f : Flags) : (s.setFlags f).lastInstruction = s.lastInstruction := rfl
@[simp] theorem State.setFlags_diag (f : Flags) : (s.setFlags f).diag = s.diag := rfl
@[simp] theorem State.setFlags_mem (f : Flags) : (s.setFlags f).mem = s.mem := rfl
@[simp] theorem State.setFlags_cfg (f : Flags) : (s.setFlags f).cfg = s.cfg := rfl

/-! ## `setPic` -/

@[simp] theorem State.setPic_regs (p : Pic) : (s.setPic p).regs = s.regs := rfl
@[simp] theorem State.setPic_segs (p : Pic) : (s.setPic p).segs = s.segs := rfl
@[simp] theorem State.setPic_ip (p : Pic) : (s.setPic p).ip = s.ip := rfl
@[simp] theorem State.setPic_flags (p : Pic) : (s.setPic p).flags = s.flags := rfl
@[simp] theorem State.setPic_kbd (p : Pic) : (s.setPic p).kbd = s.kbd := rfl
@[simp] theorem State.setPic_running (p : Pic) : (s.setPic p).running = s.running := rfl
@[simp] theorem State.setPic_lastInstruction (p : Pic) : (s.setPic p).lastInstruction = s.lastInstruction := rfl
@[simp] theorem State.setPic_diag (p : Pic) : (s.setPic p).diag = s.diag := rfl
@[simp] theorem State.setPic_mem (p : Pic) : (s.setPic p).mem = s.mem := rfl
@[simp] theorem State.setPic_cfg (p : Pic) : (s.setPic p).cfg = s.cfg := rfl

/-! ## `setKbd` -/

@[simp] theorem State.setKbd_regs (k : Keyboard) : (s.setKbd k).regs = s.regs := rfl
@[simp] theorem State.setKbd_segs (k : Keyboard) : (s.setKbd k).segs = s.segs := rfl
@[simp] theorem State.setKbd_ip (k : Keyboard) : (s.setKbd k).ip = s.ip := rfl
@[simp] theorem State.setKbd_flags (k : Keyboard) : (s.setKbd k).flags = s.flags := rfl
@[simp] theorem State.setKbd_pic (k : Keyboard) : (s.setKbd k).pic = s.pic := rfl
@[simp] theorem State.setKbd_running (k : Keyboard) : (s.setKbd k).running = s.running := rfl
@[simp] theorem State.setKbd_lastInstruction (k : Keyboard) : (s.setKbd k).lastInstruction = s.lastInstruction := rfl
@[simp] theorem State.setKbd_diag (k : Keyboard) : (s.setKbd k).diag = s.diag := rfl
@[simp] theorem State.setKbd_mem (k : Keyboard) : (s.setKbd k).mem = s.mem := rfl
@[simp] theorem State.setKbd_cfg (k : Keyboard) : (s.setKbd k).cfg = s.cfg := rfl

/-! ## `setByte` -/

@[simp] theorem State.setByte_regs (a : Nat) (v : Byte) : (s.setByte a v).regs = s.regs := rfl
@[simp] theorem State.setByte_segs (a : Nat) (v : Byte) : (s.setByte a v).segs = s.segs := rfl
@[simp] theorem State.setByte_ip (a : Nat) (v : Byte) : (s.setByte a v).ip = s.ip := rfl
@[simp] theorem State.setByte_flags (a : Nat) (v : Byte) : (s.setByte a v).flags = s.flags := rfl
@[simp] theorem State.setByte_pic (a : Nat) (v : Byte) : (s.setByte a v).pic = s.pic := rfl
@[simp] theorem State.setByte_kbd (a : Nat) (v : Byte) : (s.setByte a v).kbd = s.kbd := rfl
@[simp] theorem State.setByte_running (a : Nat) (v : Byte) : (s.setByte a v).running = s.running := rfl
@[simp] theorem State.setByte_lastInstruction (a : Nat) (v : Byte) : (s.setByte a v).lastInstruction = s.lastInstruction := rfl
@[simp] theorem State.setByte_diag (a : Nat) (v : Byte) : (s.setByte a v).diag = s.diag := rfl
@[simp] theorem State.setByte_cfg (a : Nat) (v : Byte) : (s.setByte a v).cfg = s.cfg := rfl

/-! ## `setWord` -/

@[simp] theorem State.setWord_regs (a : Nat) (v : Word) : (s.setWord a v).regs = s.regs := rfl
@[simp] theorem State.setWord_segs (a : Nat) (v : Word) : (s.setWord a v).segs = s.segs := rfl
@[simp] theorem State.setWord_ip (a : Nat) (v : Word) : (s.setWord a v).ip = s.ip := rfl
@[simp] theorem State.setWord_flags (a : Nat) (v : Word) : (s.setWord a v).flags = s.flags := rfl
@[simp] theorem State.setWord_pic (a : Nat) (v : Word) : (s.setWord a v).pic = s.pic := rfl
@[simp] theorem State.setWord_kbd (a : Nat) (v : Word) : (s.setWord a v).kbd = s.kbd := rfl
@[simp] theorem State.setWord_running (a : Nat) (v : Word) : (s.setWord a v).running = s.running := rfl
@[simp] theorem State.setWord_lastInstruction (a : Nat) (v : Word) : (s.setWord a v).lastInstruction = s.lastInstruction := rfl
@[simp] theorem State.setWord_diag (a : Nat) (v : Word) : (s.setWord a v).diag = s.diag := rfl
@[simp] theorem State.setWord_cfg (a : Nat) (v : Word) : (s.setWord a v).cfg = s.cfg := rfl

/-! ## `advance` -/

@[simp] theorem State.advance_regs (n : Word) : (s.advance n).regs = s.regs := rfl
@[simp] theorem State.advance_segs (n : Word) : (s.advance n).segs = s.segs := rfl
@[simp] theorem State.advance_flags (n : Word) : (s.advance n).flags = s.flags := rfl
@[simp] theorem State.advance_pic (n : Word) : (s.advance n).pic = s.pic := rfl
@[simp] theorem State.advance_kbd (n : Word) : (s.advance n).kbd = s.kbd := rfl
@[simp] theorem State.advance_running (n : Word) : (s.advance n).running = s.running := rfl
@[simp] theorem State.advance_lastInstruction (n : Word) : (s.advance n).lastInstruction = s.lastInstruction := rfl
@[simp] theorem State.advance_diag (n : Word) : (s.advance n).diag = s.diag := rfl
@[simp] theorem State.advance_mem (n : Word) : (s.advance n).mem = s.mem := rfl
@[simp] theorem State.advance_cfg (n : Word) : (s.advance n).cfg = s.cfg := rfl

/-! ## `setReg8` -/

@[simp] theorem State.setReg8_segs (r : Reg8) (v : Byte) : (s.setReg8 r v).segs = s.segs := by cases r <;> rfl
@[simp] theorem State.setReg8_ip (r : Reg8) (v : Byte) : (s.setReg8 r v).ip = s.ip := by cases r <;> rfl
@[simp] theorem State.setReg8_flags (r : Reg8) (v : Byte) : (s.setReg8 r v).flags = s.flags := by cases r <;> rfl
@[simp] theorem State.setReg8_pic (r : Reg8) (v : Byte) : (s.setReg8 r v).pic = s.pic := by cases r <;> rfl
@[simp] theorem State.setReg8_kbd (r : Reg8) (v : Byte) : (s.setReg8 r v).kbd = s.kbd := by cases r <;> rfl
@[simp] theorem State.setReg8_running (r : Reg8) (v : Byte) : (s.setReg8 r v).running = s.running := by cases r <;> rfl
@[simp] theorem State.setReg8_lastInstruction (r : Reg8) (v : Byte) : (s.setReg8 r v).lastInstruction = s.lastInstruction := by cases r <;> rfl
@[simp] theorem State.setReg8_diag (r : Reg8) (v : Byte) : (s.setReg8 r v).diag = s.diag := by cases r <;> rfl
@[simp] theorem State.setReg8_mem (r : Reg8) (v : Byte) : (s.setReg8 r v).mem = s.mem := by cases r <;> rfl
@[simp] theorem State.setReg8_cfg (r : Reg8) (v : Byte) : (s.setReg8 r v).cfg = s.cfg := by cases r <;> rfl

/-! ## `raise` -/

@[simp] theorem State.raise_regs (k : FaultKind) (a : Option Nat) (o : Word) : (s.raise k a o).regs = s.regs := rfl
@[simp] theorem State.raise_segs (k : FaultKind) (a : Option Nat) (o : Word) : (s.raise k a o).segs = s.segs := rfl
@[simp] theorem State.raise_ip (k : FaultKind) (a : Option Nat) (o : Word) : (s.raise k a o).ip = s.ip := rfl
@[simp] theorem State.raise_flags (k : FaultKind) (a : Option Nat) (o : Word) : (s.raise k a o).flags = s.flags := rfl
@[simp] theorem State.raise_pic (k : FaultKind) (a : Option Nat) (o : Word) : (s.raise k a o).pic = s.pic := rfl
@[simp] theorem State.raise_kbd (k : FaultKind) (a : Option Nat) (o : Word) : (s.raise k a o).kbd = s.kbd := rfl
@[simp] theorem State.raise_lastInstruction (k : FaultKind) (a : Option Nat) (o : Word) : (s.raise k a o).lastInstruction = s.lastInstruction := rfl
@[simp] theorem State.raise_mem (k : FaultKind) (a : Option Nat) (o : Word) : (s.raise k a o).mem = s.mem := rfl
@[simp] theorem State.raise_cfg (k : FaultKind) (a : Option Nat) (o : Word) : (s.raise k a o).cfg = s.cfg := rfl

/-! ## `memoryFault` -/

@[simp] theorem State.memoryFault_regs (a : Nat) (o : Word) : (s.memoryFault a o).regs = s.regs := rfl
@[simp] theorem State.memoryFault_segs (a : Nat) (o : Word) : (s.memoryFault a o).segs = s.segs := rfl
@[simp] theorem State.memoryFault_ip (a : Nat) (o : Word) : (s.memoryFault a o).ip = s.ip := rfl
@[simp] theorem State.memoryFault_flags (a : Nat) (o : Word) : (s.memoryFault a o).flags = s.flags := rfl
@[simp] theorem State.memoryFault_pic (a : Nat) (o : Word) : (s.memoryFault a o).pic = s.pic := rfl
@[simp] theorem State.memoryFault_kbd (a : Nat) (o : Word) : (s.memoryFault a o).kbd = s.kbd := rfl
@[simp] theorem State.memoryFault_lastInstruction (a : Nat) (o : Word) : (s.memoryFault a o).lastInstruction = s.lastInstruction := rfl
@[simp] theorem State.memoryFault_mem (a : Nat) (o : Word) : (s.memoryFault a o).mem = s.mem := rfl
@[simp] theorem State.memoryFault_cfg (a : Nat) (o : Word) : (s.memoryFault a o).cfg = s.cfg := rfl

/-! ## `afterOpcode` -/

@[simp] theorem State.afterOpcode_regs (op : Byte) : (s.afterOpcode op).regs = s.regs := rfl
@[simp] theorem State.afterOpcode_segs (op : Byte) : (s.afterOpcode op).segs = s.segs := rfl
@[simp] theorem State.afterOpcode_flags (op : Byte) : (s.afterOpcode op).flags = s.flags := rfl
@[simp] theorem State.afterOpcode_pic (op : Byte) : (s.afterOpcode op).pic = s.pic := rfl
@[simp] theorem State.afterOpcode_kbd (op : Byte) : (s.afterOpcode op).kbd = s.kbd := rfl
@[simp] theorem State.afterOpcode_running (op : Byte) : (s.afterOpcode op).running = s.running := rfl
@[simp] theorem State.afterOpcode_diag (op : Byte) : (s.afterOpcode op).diag = s.diag := rfl
@[simp] theorem State.afterOpcode_mem (op : Byte) : (s.afterOpcode op).mem = s.mem := rfl
@[simp] theorem State.afterOpcode_cfg (op : Byte) : (s.afterOpcode op).cfg = s.cfg := rfl

/-! ## The fields written -/

@[simp] theorem State.setIp_ip (v : Word) : (s.setIp v).ip = v := rfl
@[simp] theorem State.setFlags_flags (f : Flags) : (s.setFlags f).flags = f := rfl
@[simp] theorem State.setPic_pic (p : Pic) : (s.setPic p).pic = p := rfl
@[simp] theorem State.setKbd_kbd (k : Keyboard) : (s.setKbd k).kbd = k := rfl
@[simp] theorem State.advance_ip (n : Word) : (s.advance n).ip = s.opip + n := rfl
@[simp] theorem State.raise_running (k : FaultKind) (a : Option Nat) (o : Word) : (s.raise k a o).running = false := rfl
@[simp] theorem State.raise_diag (k : FaultKind) (a : Option Nat) (o : Word) :
    (s.raise k a o).diag = some ⟨k, s.lastInstruction, s.segs.cs, o, a⟩ := rfl
@[simp] theorem State.memoryFault_running (a : Nat) (o : Word) : (s.memoryFault a o).running = false := rfl
@[simp] theorem State.memoryFault_diag (a : Nat) (o : Word) :
    (s.memoryFault a o).diag = some ⟨.memoryFault, s.lastInstruction, s.segs.cs, o, some a⟩ := rfl
@[simp] theorem State.afterOpcode_ip (op : Byte) : (s.afterOpcode op).ip = s.ip + 1 := rfl
@[simp] theorem State.afterOpcode_lastInstruction (op : Byte) : (s.afterOpcode op).lastInstruction = op := rfl

/-- Inside a handler the opcode address is what IP was at the opcode fetch (R80). -/
@[simp] theorem State.afterOpcode_opip (op : Byte) : (s.afterOpcode op).opip = s.ip := by
  simp [State.opip]

/-- A register reads back what was written to it, every other register what it held. -/
@[simp] theorem State.reg_setReg (r q : Reg16) (v : Word) : (s.setReg r v).reg q = if q = r then v else s.reg q := by
  cases r <;> cases q <;> rfl

/-- A segment register reads back what was written to it, every other one what it held. -/
@[simp] theorem State.seg_setSeg (r q : SegReg) (v : Word) : (s.setSeg r v).seg q = if q = r then v else s.seg q := by
  cases r <;> cases q <;> rfl

@[simp] theorem State.setReg_sp (v : Word) : (s.setReg .sp v).regs.sp = v := rfl

end Sys2Proof.Machine
end

