-- ==== Sys2Proof/Laws/Memory.lean ====
section
/-! SUPPORT. Memory read after write (20_memory.md R53, R54) and its canonical form. -/

namespace Sys2Proof.Machine

variable (s : State)

/-! ## Reads -/

theorem State.byteAt_setByte (a b : Nat) (v : Byte) :
    (s.setByte a v).byteAt b = if b = a then v else s.byteAt b := cellGet_set a b v s.mem

theorem State.byteAt_setWord (a b : Nat) (v : Word) :
    (s.setWord a v).byteAt b = if b = a + 1 then highByte v else if b = a then lowByte v else s.byteAt b := by
  simp only [State.setWord, State.byteAt_setByte]

@[simp] theorem State.byteAt_setByte_same (a : Nat) (v : Byte) : (s.setByte a v).byteAt a = v := by
  simp [State.byteAt_setByte]

/-- A word reads back as it was written, at any address (R54, R56, R59). -/
@[simp] theorem State.wordAt_setWord_same (a : Nat) (v : Word) : (s.setWord a v).wordAt a = v := by
  simp [State.wordAt, State.byteAt_setWord]

/-- A word store leaves every byte outside its two alone. -/
theorem State.byteAt_setWord_other {a b : Nat} (v : Word) (h : b ≠ a) (h' : b ≠ a + 1) :
    (s.setWord a v).byteAt b = s.byteAt b := by
  simp [State.byteAt_setWord, h, h']

/-- A word store leaves every word that shares no byte with it alone. -/
theorem State.wordAt_setWord_other {a b : Nat} (v : Word) (h : b + 1 < a ∨ a + 1 < b) :
    (s.setWord a v).wordAt b = s.wordAt b := by
  simp only [State.wordAt]
  rw [State.byteAt_setWord_other, State.byteAt_setWord_other] <;> omega

/-! ## Updates of other state leave every byte alone -/

@[simp] theorem State.byteAt_setReg (r : Reg16) (v : Word) (a : Nat) : (s.setReg r v).byteAt a = s.byteAt a := rfl
@[simp] theorem State.byteAt_setSeg (r : SegReg) (v : Word) (a : Nat) : (s.setSeg r v).byteAt a = s.byteAt a := rfl
@[simp] theorem State.byteAt_setIp (v : Word) (a : Nat) : (s.setIp v).byteAt a = s.byteAt a := rfl
@[simp] theorem State.byteAt_setFlags (f : Flags) (a : Nat) : (s.setFlags f).byteAt a = s.byteAt a := rfl
@[simp] theorem State.byteAt_setPic (p : Pic) (a : Nat) : (s.setPic p).byteAt a = s.byteAt a := rfl
@[simp] theorem State.byteAt_setKbd (k : Keyboard) (a : Nat) : (s.setKbd k).byteAt a = s.byteAt a := rfl
@[simp] theorem State.byteAt_advance (n : Word) (a : Nat) : (s.advance n).byteAt a = s.byteAt a := rfl
@[simp] theorem State.byteAt_raise (k : FaultKind) (x : Option Nat) (o : Word) (a : Nat) : (s.raise k x o).byteAt a = s.byteAt a := rfl
@[simp] theorem State.byteAt_memoryFault (x : Nat) (o : Word) (a : Nat) : (s.memoryFault x o).byteAt a = s.byteAt a := rfl
@[simp] theorem State.byteAt_afterOpcode (op : Byte) (a : Nat) : (s.afterOpcode op).byteAt a = s.byteAt a := rfl
@[simp] theorem State.byteAt_setReg8 (r : Reg8) (v : Byte) (a : Nat) : (s.setReg8 r v).byteAt a = s.byteAt a := by
  cases r <;> rfl

@[simp] theorem State.wordAt_setReg (r : Reg16) (v : Word) (a : Nat) : (s.setReg r v).wordAt a = s.wordAt a := rfl
@[simp] theorem State.wordAt_setSeg (r : SegReg) (v : Word) (a : Nat) : (s.setSeg r v).wordAt a = s.wordAt a := rfl
@[simp] theorem State.wordAt_setIp (v : Word) (a : Nat) : (s.setIp v).wordAt a = s.wordAt a := rfl
@[simp] theorem State.wordAt_setFlags (f : Flags) (a : Nat) : (s.setFlags f).wordAt a = s.wordAt a := rfl
@[simp] theorem State.wordAt_setPic (p : Pic) (a : Nat) : (s.setPic p).wordAt a = s.wordAt a := rfl
@[simp] theorem State.wordAt_setKbd (k : Keyboard) (a : Nat) : (s.setKbd k).wordAt a = s.wordAt a := rfl
@[simp] theorem State.wordAt_advance (n : Word) (a : Nat) : (s.advance n).wordAt a = s.wordAt a := rfl
@[simp] theorem State.wordAt_raise (k : FaultKind) (x : Option Nat) (o : Word) (a : Nat) : (s.raise k x o).wordAt a = s.wordAt a := rfl
@[simp] theorem State.wordAt_memoryFault (x : Nat) (o : Word) (a : Nat) : (s.memoryFault x o).wordAt a = s.wordAt a := rfl
@[simp] theorem State.wordAt_afterOpcode (op : Byte) (a : Nat) : (s.afterOpcode op).wordAt a = s.wordAt a := rfl

/-! ## The canonical form -/

theorem State.wf_setByte {a : Nat} (v : Byte) (ha : a < 0x100000) (h : Memory.wf s.cfg s.mem = true) :
    Memory.wf (s.setByte a v).cfg (s.setByte a v).mem = true := cellsWf_set v ha h

theorem State.wf_setWord {a : Nat} (v : Word) (ha : a + 2 ≤ 0x100000) (h : Memory.wf s.cfg s.mem = true) :
    Memory.wf (s.setWord a v).cfg (s.setWord a v).mem = true :=
  State.wf_setByte _ _ (by omega) (State.wf_setByte _ _ (by omega) h)

/-- Reset memory is canonical. -/
theorem reset_mem_wf : Memory.wf State.reset.cfg State.reset.mem = true := rfl

/-! ## Operand addresses -/

/-- The bounds check as a comparison (R55). -/
theorem inBounds_iff {a n : Nat} : inBounds a n = true ↔ a + n ≤ 0x100000 := by simp [inBounds]

/-- A translated address lies in 0x00000..0x10FFEF (R51). -/
theorem translate_le (seg off : Word) : translate seg off ≤ 0x10FFEF := by
  have := seg.isLt; have := off.isLt; simp only [translate]; omega

end Sys2Proof.Machine
end

