-- ==== Sys2Proof/Laws/Ops.lean ====
section
/-! SUPPORT. What each shared operation can do, said once: where it answers a next state and which, and where it
faults and how. Later proofs cite these lemmas instead of unfolding the operations. -/

namespace Sys2Proof.Machine

@[simp] theorem finish_ok (s : State) : finish (.ok s) = .next s := rfl
@[simp] theorem finish_error (h : State) : finish (.error h) = .next h := rfl

/-- A meaning ended by `finish` always answers a next state. -/
theorem finish_eq_next {r : Except State State} {t : State} :
    finish r = .next t ↔ r = .ok t ∨ r = .error t := by
  cases r <;> simp [finish]

/-! ## Sequencing -/

@[simp] theorem ok_bind {α β : Type} (a : α) (f : α → Except State β) : ((.ok a : Except State α) >>= f) = f a := rfl
@[simp] theorem error_bind {α β : Type} (h : State) (f : α → Except State β) :
    ((.error h : Except State α) >>= f) = .error h := rfl

/-- A sequence succeeds when both parts do. -/
theorem bind_eq_ok {α β : Type} {x : Except State α} {f : α → Except State β} {b : β} :
    (x >>= f) = .ok b ↔ ∃ a, x = .ok a ∧ f a = .ok b := by
  cases x <;> simp

/-- A sequence faults in its first part or, after it, in its second. -/
theorem bind_eq_error {α β : Type} {x : Except State α} {f : α → Except State β} {h : State} :
    (x >>= f) = .error h ↔ x = .error h ∨ ∃ a, x = .ok a ∧ f a = .error h := by
  cases x <;> simp

/-! ## Accesses (R53 to R55) -/

variable {o : Word} {s t h : State} {a : Nat}

theorem read8_eq_ok {v : Byte} : read8 o a s = .ok v ↔ a + 1 ≤ 0x100000 ∧ s.byteAt a = v := by
  simp only [read8, inBounds_iff]; split <;> simp [*]

theorem read16_eq_ok {v : Word} : read16 o a s = .ok v ↔ a + 2 ≤ 0x100000 ∧ s.wordAt a = v := by
  simp only [read16, inBounds_iff]; split <;> simp [*]

theorem write8_eq_ok {v : Byte} : write8 o a v s = .ok t ↔ a + 1 ≤ 0x100000 ∧ s.setByte a v = t := by
  simp only [write8, inBounds_iff]; split <;> simp [*]

theorem write16_eq_ok {v : Word} : write16 o a v s = .ok t ↔ a + 2 ≤ 0x100000 ∧ s.setWord a v = t := by
  simp only [write16, inBounds_iff]; split <;> simp [*]

theorem read8_eq_error : read8 o a s = .error h ↔ 0x100000 < a + 1 ∧ s.memoryFault a o = h := by
  simp only [read8, inBounds_iff]; split <;> simp <;> omega

theorem read16_eq_error : read16 o a s = .error h ↔ 0x100000 < a + 2 ∧ s.memoryFault a o = h := by
  simp only [read16, inBounds_iff]; split <;> simp <;> omega

theorem write8_eq_error {v : Byte} : write8 o a v s = .error h ↔ 0x100000 < a + 1 ∧ s.memoryFault a o = h := by
  simp only [write8, inBounds_iff]; split <;> simp <;> omega

theorem write16_eq_error {v : Word} : write16 o a v s = .error h ↔ 0x100000 < a + 2 ∧ s.memoryFault a o = h := by
  simp only [write16, inBounds_iff]; split <;> simp <;> omega

/-! ## The stack (R57, R58) -/

theorem push_eq_ok {v : Word} : push o v s = .ok t ↔
    translate s.segs.ss (s.regs.sp - 2) + 2 ≤ 0x100000 ∧
      (s.setReg .sp (s.regs.sp - 2)).setWord (translate s.segs.ss (s.regs.sp - 2)) v = t := write16_eq_ok

/-- A push that faults leaves SP decremented and memory alone. -/
theorem push_eq_error {v : Word} : push o v s = .error h ↔
    0x100000 < translate s.segs.ss (s.regs.sp - 2) + 2 ∧
      (s.setReg .sp (s.regs.sp - 2)).memoryFault (translate s.segs.ss (s.regs.sp - 2)) o = h := write16_eq_error

theorem pop_eq_ok {r : Word × State} : pop o s = .ok r ↔
    s.stackTop + 2 ≤ 0x100000 ∧ (s.wordAt s.stackTop, s.setReg .sp (s.regs.sp + 2)) = r := by
  simp only [pop, bind_eq_ok, read16_eq_ok]; aesop

/-- A pop that faults leaves SP unchanged. -/
theorem pop_eq_error : pop o s = .error h ↔ 0x100000 < s.stackTop + 2 ∧ s.memoryFault s.stackTop o = h := by
  simp [pop, bind_eq_error, read16_eq_error]

/-! ## Interrupt entry and return (R212, R191) -/

/-- Every IVT entry lies inside memory, so reading one never faults (R62). -/
theorem ivtEntry_inBounds (n : Byte) : ivtEntry n + 4 ≤ 0x400 := by
  have := n.isLt; simp only [ivtEntry]; omega

/-- An interrupt entry that succeeds: three pushes, each in bounds, then CS:IP from the IVT, IF and ISR. -/
theorem enterInterrupt_eq_ok {n : Byte} {ret : Word} : enterInterrupt o n ret s = .ok t ↔
    ∃ s1 s2 s3, push o (packFlags s.flags) s = .ok s1 ∧ push o s.segs.cs s1 = .ok s2 ∧ push o ret s2 = .ok s3 ∧
      (((s3.setIp (s3.wordAt (ivtEntry n))).setSeg .cs (s3.wordAt (ivtEntry n + 2))).setFlags
        { s.flags with interrupt := false }).setPic { s.pic with isr := s.pic.isr ||| irq1 } = t := by
  have hn := ivtEntry_inBounds n
  simp only [enterInterrupt, bind_eq_ok, push_eq_ok, read16_eq_ok, Except.ok.injEq]
  constructor
  · rintro ⟨s1, ⟨h1, rfl⟩, s2, ⟨h2, rfl⟩, s3, ⟨h3, rfl⟩, ip, ⟨-, rfl⟩, cs, ⟨-, rfl⟩, rfl⟩
    exact ⟨_, _, _, ⟨h1, rfl⟩, ⟨h2, rfl⟩, ⟨h3, rfl⟩, rfl⟩
  · rintro ⟨s1, s2, s3, ⟨h1, rfl⟩, ⟨h2, rfl⟩, ⟨h3, rfl⟩, rfl⟩
    exact ⟨_, ⟨h1, rfl⟩, _, ⟨h2, rfl⟩, _, ⟨h3, rfl⟩, _, ⟨by omega, rfl⟩, _, ⟨by omega, rfl⟩, rfl⟩

/-- An interrupt entry that faults does so in one of its pushes; the pushes before it stand (R202). -/
theorem enterInterrupt_eq_error {n : Byte} {ret : Word} : enterInterrupt o n ret s = .error h ↔
    push o (packFlags s.flags) s = .error h ∨
      ∃ s1, push o (packFlags s.flags) s = .ok s1 ∧ (push o s.segs.cs s1 = .error h ∨
        ∃ s2, push o s.segs.cs s1 = .ok s2 ∧ push o ret s2 = .error h) := by
  have hn := ivtEntry_inBounds n
  simp only [enterInterrupt, bind_eq_error, push_eq_ok, push_eq_error, read16_eq_error, read16_eq_ok, reduceCtorEq,
    and_false, exists_false, or_false]
  constructor
  · rintro (⟨h1, rfl⟩ | ⟨s1, ⟨h1, rfl⟩, ⟨h2, rfl⟩ | ⟨s2, ⟨h2, rfl⟩, ⟨h3, rfl⟩ | ⟨s3, ⟨h3, rfl⟩, ⟨h4, -⟩ | ⟨_, -, h5, -⟩⟩⟩⟩)
    · exact .inl ⟨h1, rfl⟩
    · exact .inr ⟨_, ⟨h1, rfl⟩, .inl ⟨h2, rfl⟩⟩
    · exact .inr ⟨_, ⟨h1, rfl⟩, .inr ⟨_, ⟨h2, rfl⟩, h3, rfl⟩⟩
    · omega
    · omega
  · rintro (⟨h1, rfl⟩ | ⟨s1, ⟨h1, rfl⟩, ⟨h2, rfl⟩ | ⟨s2, ⟨h2, rfl⟩, ⟨h3, rfl⟩⟩⟩)
    · exact .inl ⟨h1, rfl⟩
    · exact .inr ⟨_, ⟨h1, rfl⟩, .inl ⟨h2, rfl⟩⟩
    · exact .inr ⟨_, ⟨h1, rfl⟩, .inr ⟨_, ⟨h2, rfl⟩, .inl ⟨h3, rfl⟩⟩⟩

/-- A return that succeeds: three pops, each in bounds, then all flags and ISR. -/
theorem interruptReturn_eq_ok : interruptReturn o s = .ok t ↔
    ∃ ip s1 cs s2 fl s3, pop o s = .ok (ip, s1) ∧ pop o s1 = .ok (cs, s2) ∧ pop o s2 = .ok (fl, s3) ∧
      (((s3.setIp ip).setSeg .cs cs).setFlags (unpackFlags fl)).setPic { s.pic with isr := 0x00 } = t := by
  simp only [interruptReturn, bind_eq_ok, pop_eq_ok, Except.ok.injEq]
  constructor
  · rintro ⟨⟨ip, s1⟩, ⟨h1, e1⟩, ⟨cs, s2⟩, ⟨h2, e2⟩, ⟨fl, s3⟩, ⟨h3, e3⟩, rfl⟩
    simp only [Prod.mk.injEq] at e1 e2 e3
    obtain ⟨rfl, rfl⟩ := e1; obtain ⟨rfl, rfl⟩ := e2; obtain ⟨rfl, rfl⟩ := e3
    exact ⟨_, _, _, _, _, _, ⟨h1, rfl⟩, ⟨h2, rfl⟩, ⟨h3, rfl⟩, rfl⟩
  · rintro ⟨ip, s1, cs, s2, fl, s3, ⟨h1, e1⟩, ⟨h2, e2⟩, ⟨h3, e3⟩, rfl⟩
    simp only [Prod.mk.injEq] at e1 e2 e3
    obtain ⟨rfl, rfl⟩ := e1; obtain ⟨rfl, rfl⟩ := e2; obtain ⟨rfl, rfl⟩ := e3
    exact ⟨(_, _), ⟨h1, rfl⟩, (_, _), ⟨h2, rfl⟩, (_, _), ⟨h3, rfl⟩, rfl⟩

/-- A return that faults does so in one of its pops; the pops before it have moved SP (R191). -/
theorem interruptReturn_eq_error : interruptReturn o s = .error h ↔
    pop o s = .error h ∨ ∃ ip s1, pop o s = .ok (ip, s1) ∧ (pop o s1 = .error h ∨
      ∃ cs s2, pop o s1 = .ok (cs, s2) ∧ pop o s2 = .error h) := by
  simp only [interruptReturn, bind_eq_error, reduceCtorEq, and_false, exists_false, or_false, Prod.exists]

/-! ## The interrupt service (R211) -/

theorem pollKeyboard_eq (s : State) : pollKeyboard s =
    if s.kbd.head = s.kbd.tail then s
    else { s with pic := { s.pic with irr := s.pic.irr ||| irq1 }, kbd := { s.kbd with status := s.kbd.status ||| 0x01 } } := by
  simp only [pollKeyboard, bne_iff_ne, ne_eq, ite_not]
  split <;> rfl

/-- The service does the poll, and enters vector 9 exactly where IRQ1 is requested, unmasked and enabled. -/
theorem serviceInterrupts_eq_ok : serviceInterrupts s = .ok t ↔
    (irq1Taken (pollKeyboard s) = false ∧ pollKeyboard s = t) ∨
      (irq1Taken (pollKeyboard s) = true ∧ ∃ u, enterInterrupt s.ip 9 s.ip (pollKeyboard s) = .ok u ∧
        u.setPic { u.pic with irr := u.pic.irr &&& ~~~irq1 } = t) := by
  have hip : (pollKeyboard s).ip = s.ip := by rw [pollKeyboard_eq]; split <;> rfl
  simp only [serviceInterrupts, hip]
  split <;> simp_all [bind_eq_ok]

theorem serviceInterrupts_eq_error : serviceInterrupts s = .error h ↔
    irq1Taken (pollKeyboard s) = true ∧ enterInterrupt s.ip 9 s.ip (pollKeyboard s) = .error h := by
  have hip : (pollKeyboard s).ip = s.ip := by rw [pollKeyboard_eq]; split <;> rfl
  simp only [serviceInterrupts, hip]
  split <;> simp_all [bind_eq_error]

end Sys2Proof.Machine
end

