-- ==== Sys2Proof/Laws/PerInstr.lean ====
section
/-! SUPPORT. Statements made per instruction, one lemma per constructor. -/

namespace Sys2Proof.Laws.EncodedLength

/-- An encoding has the length the opcode map gives its form (30_encoding.md R84, R87). -/
def Statement (i : Instr) : Prop := (encode i).length = i.length

theorem movR8Imm8 (r : Reg8) (imm : Byte) : Statement (.movR8Imm8 r imm) := rfl
theorem movR16Imm16 (r : Reg16) (imm : Word) : Statement (.movR16Imm16 r imm) := rfl
theorem movDsAx : Statement .movDsAx := rfl
theorem movEsAx : Statement .movEsAx := rfl
theorem movSsAx : Statement .movSsAx := rfl
theorem movD16Ax (d : Word) : Statement (.movD16Ax d) := rfl
theorem movAxD16 (d : Word) : Statement (.movAxD16 d) := rfl
theorem movAlA16 (a : Word) : Statement (.movAlA16 a) := rfl
theorem movAxA16 (a : Word) : Statement (.movAxA16 a) := rfl
theorem movByteD16Imm8 (d : Word) (imm : Byte) : Statement (.movByteD16Imm8 d imm) := rfl
theorem movWordD16Imm16 (d : Word) (imm : Word) : Statement (.movWordD16Imm16 d imm) := rfl
theorem movWordSiImm16 (imm : Word) : Statement (.movWordSiImm16 imm) := rfl
theorem addAxBx : Statement .addAxBx := rfl
theorem addD16Ax (d : Word) : Statement (.addD16Ax d) := rfl
theorem addAxD16 (d : Word) : Statement (.addAxD16 d) := rfl
theorem addAxSi : Statement .addAxSi := rfl
theorem addAxImm16 (imm : Word) : Statement (.addAxImm16 imm) := rfl
theorem subAxBx : Statement .subAxBx := rfl
theorem subAxD16 (d : Word) : Statement (.subAxD16 d) := rfl
theorem subAxImm16 (imm : Word) : Statement (.subAxImm16 imm) := rfl
theorem cmpAxBx : Statement .cmpAxBx := rfl
theorem cmpAxD16 (d : Word) : Statement (.cmpAxD16 d) := rfl
theorem cmpAlImm8 (imm : Byte) : Statement (.cmpAlImm8 imm) := rfl
theorem cmpAxImm8 (m : Byte) (imm : Byte) : Statement (.cmpAxImm8 m imm) := rfl
theorem jc (rel : Byte) : Statement (.jc rel) := rfl
theorem jnc (rel : Byte) : Statement (.jnc rel) := rfl
theorem je (rel : Byte) : Statement (.je rel) := rfl
theorem jne (rel : Byte) : Statement (.jne rel) := rfl
theorem ja (rel : Byte) : Statement (.ja rel) := rfl
theorem jmpRel16 (rel : Word) : Statement (.jmpRel16 rel) := rfl
theorem jmpRel8 (rel : Byte) : Statement (.jmpRel8 rel) := rfl
theorem callRel16 (rel : Word) : Statement (.callRel16 rel) := rfl
theorem ret : Statement .ret := rfl
theorem pushAx : Statement .pushAx := rfl
theorem popAx : Statement .popAx := rfl
theorem pushCs : Statement .pushCs := rfl
theorem popDs : Statement .popDs := rfl
theorem popEs : Statement .popEs := rfl
theorem lodsb : Statement .lodsb := rfl
theorem stosb : Statement .stosb := rfl
theorem xorAxAx : Statement .xorAxAx := rfl
theorem xorBxBx : Statement .xorBxBx := rfl
theorem incByteD16 (d : Word) : Statement (.incByteD16 d) := rfl
theorem decByteD16 (d : Word) : Statement (.decByteD16 d) := rfl
theorem mulAl : Statement .mulAl := rfl
theorem mulByteBx : Statement .mulByteBx := rfl
theorem inAlImm8 (p : Byte) : Statement (.inAlImm8 p) := rfl
theorem inAxImm8 (p : Byte) : Statement (.inAxImm8 p) := rfl
theorem outImm8Al (p : Byte) : Statement (.outImm8Al p) := rfl
theorem outImm8Ax (p : Byte) : Statement (.outImm8Ax p) := rfl
theorem intImm8 (n : Byte) : Statement (.intImm8 n) := rfl
theorem iret : Statement .iret := rfl
theorem cli : Statement .cli := rfl
theorem sti : Statement .sti := rfl
theorem hlt : Statement .hlt := rfl

end Sys2Proof.Laws.EncodedLength
end

