-- ==== Sys2Proof/Laws/Ports.lean ====
section
/-! SUPPORT. The keyboard queue, the ports and the host's actions: what each may change, and that the queue and memory
keep their canonical form (60_exceptions.md R222 to R228, 70_reset_and_hazards.md R243). -/

namespace Sys2Proof.Machine

/-! ## The queue -/

theorem Keyboard.slot_setSlot (k : Keyboard) (i j v : Byte) :
    (k.setSlot i v).slot j = if j = i then v else k.slot j := by
  simp only [Keyboard.slot, Keyboard.setSlot, cellGet_set]
  simp [BitVec.toNat_eq]

theorem Keyboard.wf_setSlot {k : Keyboard} (i v : Byte) (h : k.wf = true) : (k.setSlot i v).wf = true :=
  cellsWf_set v i.isLt h

theorem Keyboard.wf_enqueue {k : Keyboard} (mode : KbdOverflow) (b : Byte) (h : k.wf = true) :
    (k.enqueue mode b).wf = true := by
  cases mode
  · exact Keyboard.wf_setSlot _ _ h
  · refine Keyboard.wf_setSlot _ _ ?_
    dsimp only
    split <;> exact h

/-- A read of port 0x60 moves the head and the status, never a slot or the tail. -/
theorem Keyboard.read60_buf (k : Keyboard) : k.read60.2.buf = k.buf ∧ k.read60.2.tail = k.tail := by
  simp only [Keyboard.read60, Keyboard.dequeue]
  split
  · exact ⟨rfl, rfl⟩
  · exact ⟨(apply_ite Keyboard.buf ..).trans (ite_self _), (apply_ite Keyboard.tail ..).trans (ite_self _)⟩

/-! ## The ports -/

/-- A port read changes the keyboard queue only. -/
theorem portRead_state (p : Byte) (s : State) : (portRead p s).2 = s.setKbd (portRead p s).2.kbd := by
  simp only [portRead]
  repeat' split
  all_goals rfl

/-- A port write changes IMR or ISR only. -/
theorem portWrite_state (p v : Byte) (s : State) :
    ∃ isr imr, portWrite p v s = s.setPic { s.pic with isr := isr, imr := imr } := by
  simp only [portWrite]
  repeat' split
  · exact ⟨_, _, rfl⟩
  · exact ⟨_, _, rfl⟩
  · exact ⟨s.pic.isr, s.pic.imr, rfl⟩
  · exact ⟨s.pic.isr, s.pic.imr, rfl⟩

/-! ## Canonical memory -/

theorem write8_wf {o : Word} {a : Nat} {v : Byte} {s t : State} (h : write8 o a v s = .ok t)
    (hs : Memory.wf s.cfg s.mem = true) : Memory.wf t.cfg t.mem = true := by
  obtain ⟨ha, rfl⟩ := write8_eq_ok.mp h
  exact State.wf_setByte s v (by omega) hs

theorem write16_wf {o : Word} {a : Nat} {v : Word} {s t : State} (h : write16 o a v s = .ok t)
    (hs : Memory.wf s.cfg s.mem = true) : Memory.wf t.cfg t.mem = true := by
  obtain ⟨ha, rfl⟩ := write16_eq_ok.mp h
  exact State.wf_setWord s v ha hs

theorem push_wf {o v : Word} {s t : State} (h : push o v s = .ok t) (hs : Memory.wf s.cfg s.mem = true) :
    Memory.wf t.cfg t.mem = true := by
  obtain ⟨ha, rfl⟩ := push_eq_ok.mp h
  exact State.wf_setWord (s.setReg .sp _) v ha hs

theorem placeByte_wf (a : Nat) (b : Byte) {s : State} (hs : Memory.wf s.cfg s.mem = true) :
    Memory.wf (s.placeByte a b).cfg (s.placeByte a b).mem = true := by
  simp only [State.placeByte, inBounds_iff]
  split
  · exact State.wf_setByte s b (by omega) hs
  · exact hs

theorem storeBytes_wf {a : Nat} {bs : List Byte} {s : State} (hb : a + bs.length ≤ 0x100000)
    (hs : Memory.wf s.cfg s.mem = true) : Memory.wf (storeBytes a bs s).cfg (storeBytes a bs s).mem = true := by
  induction bs generalizing a s with
  | nil => exact hs
  | cons b bs ih =>
    simp only [List.length_cons] at hb
    exact ih (by omega) (State.wf_setByte s b (by omega) hs)

end Sys2Proof.Machine
end

