-- ==== Sys2Proof/Tests/Slice0.lean ====
section
/-! SUPPORT. Tests. The words are written out from the encodings of 30_encoding.md R84, the expected results are those
of 95_test_vectors.md (T numbers). The last part shows, for every statement with hypotheses, a state that meets them. -/

namespace Sys2Proof.Tests

open Sys2Proof.Machine Sys2Proof.Claims

/-! ## WellFormed: each check refuses the forms that have no encoding -/

theorem test_wellFormed_refuses_mulAl :
    Instr.wellFormed { defaultConfig with mulF6Mode := .variantAlMemBx } .mulAl = false := by decide

theorem test_wellFormed_refuses_mulByteBx :
    Instr.wellFormed { defaultConfig with mulF6Mode := .variantAlAl } .mulByteBx = false := by decide

theorem test_wellFormed_refuses_cmpAxImm8 :
    Instr.wellFormed defaultConfig (.cmpAxImm8 0xC0 5) = false ∧ Instr.wellFormed defaultConfig (.cmpAxImm8 0xE1 5) = true := by
  decide

theorem test_wellFormed_accepts_both :
    Instr.wellFormed defaultConfig .mulAl = true ∧ Instr.wellFormed defaultConfig .mulByteBx = true := by decide

/-! ## Decoding, every constructor, from words written out bit by bit -/

/-- The instruction that a list of bytes is, whole. -/
def reads (bs : List Byte) : Option Instr :=
  match decode defaultConfig bs with
  | .ok (i, []) => some i
  | _ => none

theorem test_decode_mov_registers :
    reads [0b10110000, 0x01] = some (.movR8Imm8 .al 0x01) ∧ reads [0b10110101, 0x56] = some (.movR8Imm8 .ch 0x56) ∧
    reads [0b10111000, 0x34, 0x12] = some (.movR16Imm16 .ax 0x1234) ∧
    reads [0b10111100, 0x00, 0x80] = some (.movR16Imm16 .sp 0x8000) ∧
    reads [0b10001110, 0b11011000] = some .movDsAx ∧ reads [0b10001110, 0b11000000] = some .movEsAx ∧
    reads [0b10001110, 0b11010000] = some .movSsAx := by decide

theorem test_decode_mov_memory :
    reads [0b10001001, 0b00000110, 0x10, 0x02] = some (.movD16Ax 0x0210) ∧
    reads [0b10001011, 0b00000110, 0x10, 0x02] = some (.movAxD16 0x0210) ∧
    reads [0b10100000, 0x10, 0x02] = some (.movAlA16 0x0210) ∧
    reads [0b10100001, 0x10, 0x02] = some (.movAxA16 0x0210) ∧
    reads [0b11000110, 0b00000110, 0x10, 0x02, 0x41] = some (.movByteD16Imm8 0x0210 0x41) ∧
    reads [0b11000111, 0b00000110, 0x10, 0x02, 0x34, 0x12] = some (.movWordD16Imm16 0x0210 0x1234) ∧
    reads [0b11000111, 0b00000100, 0xCD, 0xAB] = some (.movWordSiImm16 0xABCD) := by decide

theorem test_decode_add_sub :
    reads [0b00000001, 0b11011000] = some .addAxBx ∧ reads [0b00000001, 0b00000110, 0x10, 0x02] = some (.addD16Ax 0x0210) ∧
    reads [0b00000011, 0b00000110, 0x10, 0x02] = some (.addAxD16 0x0210) ∧
    reads [0b00000011, 0b00000100] = some .addAxSi ∧ reads [0b00000101, 0x34, 0x12] = some (.addAxImm16 0x1234) ∧
    reads [0b00101001, 0b11011000] = some .subAxBx ∧ reads [0b00101011, 0b00000110, 0x10, 0x02] = some (.subAxD16 0x0210) ∧
    reads [0b00101101, 0x34, 0x12] = some (.subAxImm16 0x1234) := by decide

theorem test_decode_cmp :
    reads [0b00111011, 0b11000011] = some .cmpAxBx ∧
    reads [0b00111011, 0b00000110, 0x10, 0x02] = some (.cmpAxD16 0x0210) ∧
    reads [0b00111100, 0x80] = some (.cmpAlImm8 0x80) ∧ 
    reads [0b10000011, 0b11111000, 0xFF] = some (.cmpAxImm8 0b11111000 0xFF) ∧ reads [0b10000011, 0b11000000, 0x05] = none := by decide

/-- CMP83_MATCH = bits 5:3 are 111 (where D5 says that the 8086 has CMP). -/
def cmpByRegField : Config := { defaultConfig with cmp83Match := ⟨0x38, 0x38⟩ }

theorem test_decode_cmp83_by_its_parameter :
    decode cmpByRegField [0x83, 0x3E, 0x05] = .ok (.cmpAxImm8 0x3E 0x05, []) ∧
    decode cmpByRegField [0x83, 0xE1, 0x05] = .error (.unsupportedEncoding 0xE1) ∧
    decode defaultConfig [0x83, 0x3E, 0x05] = .error (.unsupportedEncoding 0x3E) := ⟨rfl, rfl, rfl⟩

theorem test_decode_control :
    reads [0b01110010, 0x10] = some (.jc 0x10) ∧ reads [0b01110011, 0xF0] = some (.jnc 0xF0) ∧
    reads [0b01110100, 0xFE] = some (.je 0xFE) ∧ reads [0b01110101, 0x02] = some (.jne 0x02) ∧
    reads [0b01110111, 0x05] = some (.ja 0x05) ∧ reads [0b11101001, 0xFD, 0xFF] = some (.jmpRel16 0xFFFD) ∧
    reads [0b11101011, 0xFE] = some (.jmpRel8 0xFE) ∧ reads [0b11101000, 0xFD, 0x00] = some (.callRel16 0x00FD) ∧
    reads [0b11000011] = some .ret := by decide

theorem test_decode_stack_string :
    reads [0b01010000] = some .pushAx ∧ reads [0b01011000] = some .popAx ∧ reads [0b00001110] = some .pushCs ∧
    reads [0b00011111] = some .popDs ∧ reads [0b00000111] = some .popEs ∧ reads [0b10101100] = some .lodsb ∧
    reads [0b10101010] = some .stosb := by decide

theorem test_decode_logic :
    reads [0b00110001, 0b11000000] = some .xorAxAx ∧ reads [0b00110011, 0b11011011] = some .xorBxBx ∧
    reads [0b11111110, 0b00000110, 0x00, 0x02] = some (.incByteD16 0x0200) ∧
    reads [0b11111110, 0b00001110, 0x00, 0x02] = some (.decByteD16 0x0200) ∧
    reads [0b11110110, 0b11100000] = some .mulAl ∧ reads [0b11110110, 0b00100111] = some .mulByteBx := by decide

theorem test_decode_io_system :
    reads [0b11100100, 0x60] = some (.inAlImm8 0x60) ∧ reads [0b11100101, 0x21] = some (.inAxImm8 0x21) ∧
    reads [0b11100110, 0x20] = some (.outImm8Al 0x20) ∧ reads [0b11100111, 0x21] = some (.outImm8Ax 0x21) ∧
    reads [0b11001101, 0x21] = some (.intImm8 0x21) ∧ reads [0b11001111] = some .iret ∧ reads [0b11111010] = some .cli ∧
    reads [0b11111011] = some .sti ∧ reads [0b11110100] = some .hlt := by decide

/-- `MOV DS, AX` and `MOV word [d16], imm16` as the table numbers them: the opcode is the high byte. -/
theorem test_table_words :
    decodeTableWord 16 0x8ED8 = some .movDsAx ∧ decodeTableWord 16 0xC706 = some (.movWordD16Imm16 0 0) ∧
    decodeTableWord 8 0xF4 = some .hlt ∧ decodeTableWord 16 0x83E0 = some (.cmpAxImm8 0xE0 0) := by decide

/-! ## One step of each instruction -/

/-- The state after one step of `s` with `bs` at 0000:0100; `s` itself if the step answers no next state. -/
def ran (bs : List Byte) (s : State) : State :=
  match step (storeBytes 0x100 bs s) with
  | .next t => t
  | _ => s

/-- Reset with the general registers given, the others 0 and SP = 0x7000. -/
def withAx (ax : Word) (bx : Word := 0) (si : Word := 0) : State :=
  { State.reset with regs := { State.reset.regs with ax := ax, bx := bx, si := si } }

def withSp (s : State) (sp : Word) : State := { s with regs := { s.regs with sp := sp } }

/-- CF, ZF, SF, PF and IF; OF and AF clear. -/
def flags (c z s p i : Bool) : Flags := ⟨c, z, s, false, p, false, i⟩

def withIf (s : State) (b : Bool) : State := { s with flags := { s.flags with interrupt := b } }

theorem test_movR8Imm8_keeps_the_other_half :  -- R100, R22
    (ran [0xB4, 0x56] (withAx 0x1234)).regs.ax = 0x5634 ∧ (ran [0xB4, 0x56] (withAx 0x1234)).ip = 0x0102 := by decide

theorem test_movR16Imm16_flags :  -- R101, R28
    (ran [0xB8, 0x00, 0x80] State.reset).regs.ax = 0x8000 ∧
    (ran [0xB8, 0x00, 0x80] State.reset).flags = flags false false true true true := by decide

theorem test_movDsAx : (ran [0x8E, 0xD8] (withAx 0x1000)).segs.ds = 0x1000 := by decide  -- R102

theorem test_movEsAx : (ran [0x8E, 0xC0] (withAx 0xB800)).segs.es = 0xB800 := by decide  -- R103

theorem test_movSsAx :  -- T8
    (ran [0x8E, 0xD0] (withAx 0x0900)).segs.ss = 0x0900 ∧ (ran [0x8E, 0xD0] (withAx 0x0900)).ip = 0x0102 := by decide

theorem test_movDsAx_other_modrm :  -- T9
    (ran [0x8E, 0xC8] State.reset).diag = some ⟨.unsupportedEncoding, 0x8E, 0x0000, 0x0100, none⟩ := by decide

theorem test_movD16Ax_low_byte_first :  -- T10
    (ran [0x89, 0x06, 0x00, 0x02] (withAx 0xBEEF)).byteAt 0x200 = 0xEF ∧
    (ran [0x89, 0x06, 0x00, 0x02] (withAx 0xBEEF)).byteAt 0x201 = 0xBE := by decide

theorem test_movAxD16_flags :  -- T11
    (ran [0x8B, 0x06, 0x00, 0x02] (State.reset.setWord 0x200 0x8000)).regs.ax = 0x8000 ∧
    (ran [0x8B, 0x06, 0x00, 0x02] (State.reset.setWord 0x200 0x8000)).flags = flags false false true true true := by decide

theorem test_movAlA16_keeps_ah :  -- T12
    (ran [0xA0, 0x00, 0x02] ((withAx 0x1234).setByte 0x200 0x80)).regs.ax = 0x1280 := by decide

theorem test_movAxA16_writes_no_flag :  -- T13
    (ran [0xA1, 0x00, 0x02] (State.reset.setWord 0x200 0x1234)).regs.ax = 0x1234 ∧
    (ran [0xA1, 0x00, 0x02] (State.reset.setWord 0x200 0x1234)).flags = State.reset.flags := by decide

theorem test_movAxA16_last_byte_faults :  -- T14
    (ran [0xA1, 0xFF, 0xFF] (State.reset.setSeg .ds 0xF000)).diag =
      some ⟨.memoryFault, 0xA1, 0x0000, 0x0100, some 0xFFFFF⟩ := by decide

theorem test_movByteD16Imm8 :  -- T15
    (ran [0xC6, 0x06, 0x00, 0x80, 0x41] (State.reset.setSeg .ds 0xB000)).byteAt 0xB8000 = 0x41 := by decide

theorem test_movWordD16Imm16 :  -- T16
    (ran [0xC7, 0x06, 0x00, 0x02, 0x34, 0x12] State.reset).wordAt 0x200 = 0x1234 ∧
    (ran [0xC7, 0x06, 0x00, 0x02, 0x34, 0x12] State.reset).ip = 0x0106 := by decide

theorem test_movWordSiImm16 :  -- T17
    (ran [0xC7, 0x04, 0xCD, 0xAB] ((withAx 0 0 0x0010).setSeg .ds 0x1000)).wordAt 0x10010 = 0xABCD := by decide

theorem test_addAxBx_carries :  -- T20
    (ran [0x01, 0xD8] (withAx 0xFFFF 0x0001)).regs.ax = 0 ∧
    (ran [0x01, 0xD8] (withAx 0xFFFF 0x0001)).flags = flags true true false true true := by decide

theorem test_addAxBx_keeps_overflow :  -- T21
    (ran [0x01, 0xD8] (withAx 0x7FFF 0x0001)).flags = flags false false true true true := by decide

theorem test_addD16Ax :  -- T22
    (ran [0x01, 0x06, 0x00, 0x02] ((withAx 1).setWord 0x200 0x00FF)).wordAt 0x200 = 0x0100 ∧
    (ran [0x01, 0x06, 0x00, 0x02] ((withAx 1).setWord 0x200 0x00FF)).regs.ax = 1 := by decide

theorem test_addAxD16 :  -- T23
    (ran [0x03, 0x06, 0x00, 0x02] ((withAx 0xFFFF).setWord 0x200 1)).flags = flags true true false true true := by decide

theorem test_addAxSi : (ran [0x03, 0x04] ((withAx 3 0 0x200).setWord 0x200 2)).regs.ax = 5 := by decide  -- T24

theorem test_addAxImm16 : (ran [0x05, 0x01, 0x00] (withAx 0x00FE)).regs.ax = 0x00FF := by decide  -- T25

theorem test_subAxBx_borrows :  -- T26
    (ran [0x29, 0xD8] (withAx 1 2)).regs.ax = 0xFFFF ∧
    (ran [0x29, 0xD8] (withAx 1 2)).flags = flags true false true true true := by decide

theorem test_subAxD16 :  -- T27
    (ran [0x2B, 0x06, 0x00, 0x02] ((withAx 5).setWord 0x200 5)).flags = flags false true false true true := by decide

theorem test_subAxImm16 : (ran [0x2D, 0x01, 0x00] (withAx 0)).regs.ax = 0xFFFF := by decide  -- T28

theorem test_cmpAxBx :  -- T29
    (ran [0x3B, 0xC3] (withAx 3 5)).regs.ax = 3 ∧
    (ran [0x3B, 0xC3] (withAx 3 5)).flags = flags true false true false true := by decide

theorem test_cmpAxD16 :  -- T30
    (ran [0x3B, 0x06, 0x00, 0x02] ((withAx 0x1234).setWord 0x200 0x1234)).flags =
      flags false true false true true := by decide

theorem test_cmpAlImm8_byte_sign :  -- T31
    (ran [0x3C, 0x80] (withAx 0x007F)).flags = flags true false false true true := by decide

theorem test_cmpAxImm8_sign_extends :  -- T33
    (ran [0x83, 0xF8, 0xFF] (withAx 1)).flags = flags true false false false true := by decide

theorem test_cmpAxImm8_ignores_the_register :  -- T35
    (ran [0x83, 0xE1, 0x01] (withAx 1)).flags = flags false true false true true := by decide

theorem test_jc :  -- T40, T41
    (ran [0x72, 0x10] { State.reset with flags := flags true false false false true }).ip = 0x0112 ∧
    (ran [0x72, 0x10] State.reset).ip = 0x0102 := by decide

theorem test_jnc_backwards : (ran [0x73, 0xF0] State.reset).ip = 0x00F2 := by decide  -- T42

theorem test_je : (ran [0x74, 0xFE] { State.reset with flags := flags false true false false true }).ip = 0x0100 := by
  decide  -- T44

theorem test_jne : (ran [0x75, 0x02] State.reset).ip = 0x0104 := by decide  -- T45

theorem test_ja :  -- T46, T47
    (ran [0x77, 0x05] State.reset).ip = 0x0107 ∧
    (ran [0x77, 0x05] { State.reset with flags := flags true false false false true }).ip = 0x0102 := by decide

theorem test_jmpRel16_counts_from_the_opcode :  -- T49, T52
    (ran [0xE9, 0x00, 0x01] State.reset).ip = 0x0200 ∧ (ran [0xE9, 0x00, 0x00] State.reset).ip = 0x0100 := by decide

theorem test_jmpRel8 : (ran [0xEB, 0xFE] State.reset).ip = 0x0100 := by decide  -- T53

theorem test_callRel16 :  -- T54
    (ran [0xE8, 0xFD, 0x00] State.reset).regs.sp = 0x6FFE ∧ (ran [0xE8, 0xFD, 0x00] State.reset).wordAt 0x6FFE = 0x0103 ∧
    (ran [0xE8, 0xFD, 0x00] State.reset).ip = 0x0200 := by decide

theorem test_ret :  -- T55
    (ran [0xC3] (withSp (State.reset.setWord 0x6FFE 0x0103) 0x6FFE)).ip = 0x0103 ∧
    (ran [0xC3] (withSp (State.reset.setWord 0x6FFE 0x0103) 0x6FFE)).regs.sp = 0x7000 := by decide

theorem test_pushAx_wraps_sp :  -- T61
    (ran [0x50] (withSp (withAx 0xBEEF) 0)).regs.sp = 0xFFFE ∧
    (ran [0x50] (withSp (withAx 0xBEEF) 0)).wordAt 0x0FFFE = 0xBEEF := by decide

theorem test_popAx :  -- T62
    (ran [0x58] (withSp (State.reset.setWord 0x6FFE 0x1234) 0x6FFE)).regs = { (withAx 0x1234).regs with sp := 0x7000 } := by
  decide

theorem test_pushCs :  -- T63
    (ran [0x0E] (State.reset.setWord 0x6FFE 0xFFFF)).wordAt 0x6FFE = 0 := by decide

theorem test_popDs :  -- T64
    (ran [0x1F] (withSp (State.reset.setWord 0x6FFE 0x2000) 0x6FFE)).segs.ds = 0x2000 := by decide

theorem test_popEs :  -- T65
    (ran [0x07] (withSp (State.reset.setWord 0x6FFE 0x1000) 0x6FFE)).segs.es = 0x1000 := by decide

theorem test_lodsb_wraps_si :  -- T67, T68
    (ran [0xAC] ((withAx 0xFF00 0 0x200).setByte 0x200 0x41)).regs = (withAx 0xFF41 0 0x201).regs ∧
    (ran [0xAC] ((withAx 0 0 0xFFFF).setByte 0xFFFF 0x5A)).regs = (withAx 0x005A 0 0).regs := by decide

theorem test_stosb :  -- T69
    (ran [0xAA] ((withAx 0x0041).setSeg .es 0xB800)).byteAt 0xB8000 = 0x41 ∧
    (ran [0xAA] ((withAx 0x0041).setSeg .es 0xB800)).regs.di = 1 := by decide

theorem test_xorAxAx_keeps_carry :  -- T70
    (ran [0x31, 0xC0] { withAx 0x1234 with flags := flags true false false false true }).flags =
      flags true true false true true := by decide

theorem test_xorBxBx : (ran [0x33, 0xDB] (withAx 0 0xFFFF)).regs.bx = 0 := by decide  -- T71

theorem test_incByteD16 :  -- T74
    (ran [0xFE, 0x06, 0x00, 0x02] (State.reset.setByte 0x200 0x7F)).byteAt 0x200 = 0x80 ∧
    (ran [0xFE, 0x06, 0x00, 0x02] (State.reset.setByte 0x200 0x7F)).flags = flags false false false false true := by decide

theorem test_decByteD16_wraps :  -- T75
    (ran [0xFE, 0x0E, 0x00, 0x02] State.reset).byteAt 0x200 = 0xFF ∧
    (ran [0xFE, 0x0E, 0x00, 0x02] State.reset).flags = flags false false false true true := by decide

theorem test_mulAl :  -- T77
    (ran [0xF6, 0xE0] (withAx 0x0010)).regs.ax = 0x0100 ∧
    (ran [0xF6, 0xE0] (withAx 0x0010)).flags = flags true false false true true := by decide

theorem test_mulByteBx :  -- T80
    (ran [0xF6, 0x27] ((withAx 0x00FF 0x300).setByte 0x300 0xFF)).regs.ax = 0xFE01 ∧
    (ran [0xF6, 0x27] ((withAx 0x00FF 0x300).setByte 0x300 0xFF)).flags = flags true false true false true := by decide

/-- IF = 0 and one key in the queue. -/
def keyWaiting : State := enqueue 0x1E (withIf State.reset false)

theorem test_inAlImm8_pops_the_queue :  -- T90
    (ran [0xE4, 0x60] keyWaiting).regs.ax = 0x001E ∧ (ran [0xE4, 0x60] keyWaiting).kbd.head = 1 ∧
    (ran [0xE4, 0x60] keyWaiting).kbd.status = 0 ∧ (ran [0xE4, 0x60] keyWaiting).pic.irr = 0x02 := by decide

theorem test_inAlImm8_unmapped : (ran [0xE4, 0x99] (withAx 0xFFFF)).regs.ax = 0xFF00 := by decide  -- T99

theorem test_inAxImm8 : (ran [0xE5, 0x21] (withAx 0xFFFF)).regs.ax = 0x00FD := by decide  -- T94

theorem test_outImm8Al_imr : (ran [0xE6, 0x21] (withAx 0x00FF)).pic.imr = 0xFF := by decide  -- T96

theorem test_outImm8Al_eoi :  -- T97, T98
    (ran [0xE6, 0x20] ((withAx 0x20).setPic ⟨0, 2, 0xFD⟩)).pic.isr = 0 ∧
    (ran [0xE6, 0x20] ((withAx 0x11).setPic ⟨0, 2, 0xFD⟩)).pic.isr = 2 := by decide

theorem test_outImm8Ax : (ran [0xE7, 0x21] (withAx 0x12FF)).pic.imr = 0xFF := by decide  -- T101

/-- T110's start, with INT at 0x0100: vector 0x21 leads to 0000:0400. -/
def beforeInt : State :=
  { (State.reset.setWord 0x84 0x0400).setWord 0x86 0 with flags := flags true false false false true }

theorem test_intImm8_pushes :  -- T110
    (ran [0xCD, 0x21] beforeInt).wordAt 0x6FFE = 0x0041 ∧ (ran [0xCD, 0x21] beforeInt).wordAt 0x6FFC = 0 ∧
    (ran [0xCD, 0x21] beforeInt).wordAt 0x6FFA = 0x0102 ∧ (ran [0xCD, 0x21] beforeInt).regs.sp = 0x6FFA := by decide

theorem test_intImm8_enters :  -- T110, T111
    (ran [0xCD, 0x21] beforeInt).ip = 0x0400 ∧ (ran [0xCD, 0x21] beforeInt).flags.interrupt = false ∧
    (ran [0xCD, 0x21] beforeInt).pic.isr = 0x02 ∧ (ran [0xCD, 0x21] (withIf State.reset false)).ip = 0x0102 := by decide

/-- A stack frame of 0x0202, 0x0000 and the FLAGS word given. -/
def beforeIret (fl : Word) : State :=
  withSp (((State.reset.setWord 0x6FFA 0x0202).setWord 0x6FFC 0).setWord 0x6FFE fl) 0x6FFA

theorem test_iret :  -- T112
    (ran [0xCF] (beforeIret 0x0041)).ip = 0x0202 ∧ (ran [0xCF] (beforeIret 0x0041)).regs.sp = 0x7000 ∧
    (ran [0xCF] (beforeIret 0x0041)).flags = flags true false false false true := by decide

theorem test_iret_restores_all_seven_flags :  -- T113
    (ran [0xCF] (beforeIret 0xFFFF)).flags = ⟨true, true, true, true, true, true, true⟩ := by decide

theorem test_cli : (ran [0xFA] State.reset).flags.interrupt = false := by decide  -- T114

theorem test_sti : (ran [0xFB] (withIf State.reset false)).flags.interrupt = true := by decide  -- T115

theorem test_hlt :  -- T116
    (ran [0xF4] State.reset).running = false ∧ (ran [0xF4] State.reset).diag = none ∧
    (ran [0xF4] State.reset).ip = 0x0101 := by decide

theorem test_unrecognized_opcode :  -- T117
    (ran [0x90] State.reset).diag = some ⟨.unrecognizedOpcode, 0x90, 0x0000, 0x0100, none⟩ ∧
    (ran [0x90] State.reset).ip = 0x0101 := by decide

theorem test_service_from_reset :  -- T127: vector 9 leads to 0100:0000, where 0x00 is no opcode
    (ran [] (enqueue 0x1E State.reset)).wordAt 0x6FFE = 0x0040 ∧
    (ran [] (enqueue 0x1E State.reset)).wordAt 0x6FFA = 0x0100 ∧
    (ran [] (enqueue 0x1E State.reset)).ip = 0x0001 ∧ (ran [] (enqueue 0x1E State.reset)).segs.cs = 0x0100 := by decide

theorem test_service_fault :  -- T125
    (ran [] (enqueue 0x01 (withSp (State.reset.setSeg .ss 0xFFFF) 0x0014))).diag =
      some ⟨.memoryFault, 0x00, 0x0000, 0x0100, some 0x100002⟩ ∧
    (ran [] (enqueue 0x01 (withSp (State.reset.setSeg .ss 0xFFFF) 0x0014))).regs.sp = 0x0012 := by decide

/-- The state after a step with the table word `w` placed by `withFetchWord`. -/
def ranWord (nbits w : Nat) (s : State) : State :=
  match step (s.withFetchWord nbits w) with
  | .next t => t
  | _ => s

theorem test_withFetchWord_runs_its_instruction :
    (ranWord 16 0x01D8 State.reset).lastInstruction = 0x01 ∧ (ranWord 16 0x01D8 State.reset).ip = 0x0102 := by decide

/-! ## Witnesses: a state that meets the hypotheses of each statement, at the boundaries of its clauses -/

/-- SS:SP given, IF = 1. -/
def stackAt (ss sp : Word) : State := withSp (State.reset.setSeg .ss ss) sp

/-- An access that just fits and one that just does not, of one byte and of two. -/
theorem witness_access_clauses :
    Fits 0xFFFFF 1 ∧ ¬ Fits 0x100000 1 ∧ Fits 0xFFFFE 2 ∧ ¬ Fits 0xFFFFF 2 := by unfold Fits; decide

/-- Push and pop: SP wraps and the word straddles offset 0xFFFF; the last word of memory; the first that does not fit. -/
theorem witness_stack_clauses :
    Fits (below (stackAt 0 0x0001) 2) 2 ∧ Fits (below (stackAt 0xF000 0x0000) 2) 2 ∧
    ¬ Fits (below (stackAt 0xF000 0x0001) 2) 2 ∧ Fits (above (stackAt 0xF000 0xFFFE) 0) 2 ∧
    ¬ Fits (above (stackAt 0xF000 0xFFFF) 0) 2 := by unfold Fits; decide

/-- The data operands of the MOV, ADD, SUB, CMP, INC, DEC, MUL and string forms, where they fit and where they do not. -/
theorem witness_operand_clauses :
    Fits ((State.reset.setSeg .ds 0xF000).ea (.direct 0xFFFE)) 2 ∧
    ¬ Fits ((State.reset.setSeg .ds 0xF000).ea (.direct 0xFFFF)) 2 ∧
    Fits ((State.reset.setSeg .ds 0xF000).ea (.direct 0xFFFF)) 1 ∧
    ¬ Fits ((State.reset.setSeg .ds 0xFFFF).ea (.direct 0x0010)) 1 ∧
    Fits ((withAx 0 0 0xFFFF).ea .siRelative) 2 ∧ ¬ Fits (((withAx 0 0 0xFFFF).setSeg .ds 0xF000).ea .siRelative) 2 ∧
    Fits ((withAx 0 0xFFFF).ea .bxRelative) 1 ∧ ¬ Fits (((withAx 0 0x0010).setSeg .ds 0xFFFF).ea .bxRelative) 1 ∧
    Fits ((withAx 0 0 0xFFFF).ea .stringSource) 1 ∧
    ¬ Fits (((withAx 0 0 0x0010).setSeg .ds 0xFFFF).ea .stringSource) 1 ∧
    Fits ((State.reset.setSeg .es 0xB800).ea .stringDestination) 1 ∧
    ¬ Fits (((State.reset.setReg .di 0x0010).setSeg .es 0xFFFF).ea .stringDestination) 1 := by unfold Fits; decide

/-- `JaAfterCmp…` and the frames: an instruction answers a next state, and some register, segment register and byte is
outside what it writes. -/
theorem witness_exec_answers :
    (∃ t, exec .cmpAxBx State.reset = .next t) ∧ (∃ t, exec .pushAx State.reset = .next t) ∧
    Reg16.bx ∉ (writes State.reset .pushAx).regs ∧ SegReg.cs ∉ (writes State.reset .pushAx).segs ∧
    (0x7000 : Nat) ∉ (writes State.reset .pushAx).bytes :=
  ⟨⟨_, rfl⟩, ⟨_, rfl⟩, by decide, by decide, by decide⟩

/-- The flag clauses of `FlagsFrame` and the clauses of `DeviceFrame`. -/
theorem witness_frame_clauses :
    Instr.pushAx ≠ .iret ∧ (writes State.reset .pushAx).interrupt = false ∧ (writes State.reset .pushAx).carry = false ∧
    (writes State.reset .pushAx).zsp = false ∧ Instr.pushAx ∉ [Instr.outImm8Al 0x21, .outImm8Ax 0x21] ∧
    (∀ n, Instr.pushAx ≠ .intImm8 n) ∧ Instr.pushAx ∉ [Instr.iret, .outImm8Al 0x20, .outImm8Ax 0x20] ∧
    Instr.pushAx ∉ [Instr.inAlImm8 0x60, .inAxImm8 0x60] := by
  refine ⟨?_, ?_, ?_, ?_, ?_, nofun, ?_, ?_⟩ <;> decide

/-- The queue statements: an empty queue and 255 bytes; 256 bytes under NAIVE_TAIL. -/
theorem witness_queue :
    State.reset.kbd.head = State.reset.kbd.tail ∧ (List.replicate 255 (0x41 : Byte)).length ≤ 255 ∧
    State.reset.cfg.kbdOverflow = .naiveTail ∧ (List.replicate 256 (0x41 : Byte)).length = 256 := by
  exact ⟨rfl, Nat.le_of_eq List.length_replicate, rfl, List.length_replicate⟩

/-- INT taken with all three pushes in bounds, SP wrapping between them, and INT skipped. -/
theorem witness_int :
    (stackAt 0 0x0003).flags.interrupt = true ∧ Fits (below (stackAt 0 0x0003) 2) 2 ∧
    Fits (below (stackAt 0 0x0003) 4) 2 ∧ Fits (below (stackAt 0 0x0003) 6) 2 ∧
    (withIf State.reset false).flags.interrupt = false := by unfold Fits; decide

/-- INT whose first, second or third push is the one that does not fit. -/
theorem witness_int_fault :
    (stackAt 0xFFFF 0x0014).flags.interrupt = true ∧ ¬ Fits (below (stackAt 0xFFFF 0x0014) 2) 2 ∧
    Fits (below (stackAt 0xF010 0x0002) 2) 2 ∧ ¬ Fits (below (stackAt 0xF010 0x0002) 4) 2 ∧
    Fits (below (stackAt 0xF010 0x0004) 2) 2 ∧ Fits (below (stackAt 0xF010 0x0004) 4) 2 ∧
    ¬ Fits (below (stackAt 0xF010 0x0004) 6) 2 := by unfold Fits; decide

/-- IRET with all three pops in bounds, SP wrapping between them. -/
theorem witness_iret :
    Fits (above (stackAt 0xF000 0xFFFC) 0) 2 ∧ Fits (above (stackAt 0xF000 0xFFFC) 2) 2 ∧
    Fits (above (stackAt 0xF000 0xFFFC) 4) 2 := by unfold Fits; decide

/-- IRET whose second or third pop is the first that does not fit. -/
theorem witness_iret_fault :
    Fits (above (stackAt 0xF001 0xFFEE) 0) 2 ∧ ¬ Fits (above (stackAt 0xF001 0xFFEE) 2) 2 ∧
    Fits (above (stackAt 0xF001 0xFFEC) 0) 2 ∧ Fits (above (stackAt 0xF001 0xFFEC) 2) 2 ∧
    ¬ Fits (above (stackAt 0xF001 0xFFEC) 4) 2 := by unfold Fits; decide

/-- `IretUndoesInterruptEntry`: an INT, then the opcode of IRET fetched in the state it leaves. -/
theorem witness_iret_after_int :
    State.reset.flags.interrupt = true ∧ Fits (below State.reset 2) 2 ∧ Fits (below State.reset 4) 2 ∧
    Fits (below State.reset 6) 2 ∧
    ∃ t, exec (.intImm8 0x21) State.reset = .next t ∧ (t.afterOpcode 0xCF).regs.sp = t.regs.sp ∧
      (t.afterOpcode 0xCF).segs.ss = t.segs.ss ∧
      ∀ k ∈ [(2 : Word), 4, 6], (t.afterOpcode 0xCF).wordAt (below State.reset k) = t.wordAt (below State.reset k) :=
  ⟨rfl, by unfold Fits; decide, by unfold Fits; decide, by unfold Fits; decide, _, rfl, rfl, rfl, fun _ _ => rfl⟩

/-- Instructions are well-formed, 0x83 at the ends of its ModRM range, bytes decode with MUL_F6_MODE = BY_MODRM, and both variants
of it exist. -/
theorem witness_encoding :
    Instr.wellFormed defaultConfig (.movWordD16Imm16 0xFFFF 0xFFFF) = true ∧
    Instr.wellFormed defaultConfig (.cmpAxImm8 0xE0 0xFF) = true ∧
    Instr.wellFormed defaultConfig (.cmpAxImm8 0xFF 0xFF) = true ∧ defaultConfig.mulF6Mode = .byModrm ∧
    decode defaultConfig [0xF6, 0xE0, 0x90] = .ok (.mulAl, [0x90]) ∧
    ({ defaultConfig with mulF6Mode := .variantAlAl } : Config).mulF6Mode = .variantAlAl ∧
    ({ defaultConfig with mulF6Mode := .variantAlMemBx } : Config).mulF6Mode = .variantAlMemBx := by
  refine ⟨?_, ?_, ?_, ?_, rfl, ?_, ?_⟩ <;> decide

/-- The code `bs` at CS:IP = `cs:ip`. -/
def codeAt (cs ip : Word) (bs : List Byte) : State :=
  placeCode cs ip bs { State.reset with segs := { State.reset.segs with cs := cs }, ip := ip }

/-- An opcode outside R84 at reset's CS:IP. -/
theorem witness_unrecognized :
    FetchesOpcode State.reset State.reset 0x00 ∧ (0x00 : Byte) ∉ listedOpcodes :=
  ⟨⟨rfl, rfl, by unfold Fits; decide, rfl⟩, by decide⟩

/-- `codeAt`, with the parameters given. -/
def codeWith (c : Config) (cs ip : Word) (bs : List Byte) : State := { codeAt cs ip bs with cfg := c }

/-- A ModRM value that its opcode does not accept: of 0x8E; of 0x83, by the default pattern and by another; of 0xF6. -/
theorem witness_unsupported :
    FetchesOpcode (codeAt 0 0x100 [0x8E, 0xC8]) (codeAt 0 0x100 [0x8E, 0xC8]) 0x8E ∧
    FetchesModrm (codeAt 0 0x100 [0x8E, 0xC8]) 0xC8 ∧ (0x8E : Byte) ∈ modrmOpcodes ∧
    acceptsModrm defaultConfig 0x8E 0xC8 = false ∧
    FetchesOpcode (codeWith cmpByRegField 0 0x100 [0x83, 0xE1]) (codeWith cmpByRegField 0 0x100 [0x83, 0xE1]) 0x83 ∧
    FetchesModrm (codeWith cmpByRegField 0 0x100 [0x83, 0xE1]) 0xE1 ∧ (0x83 : Byte) ∈ modrmOpcodes ∧
    acceptsModrm cmpByRegField 0x83 0xE1 = false ∧ acceptsModrm defaultConfig 0x83 0xDF = false ∧
    acceptsModrm defaultConfig 0xF6 0xE1 = false := by
  unfold FetchesOpcode FetchesModrm Fits
  exact ⟨⟨rfl, rfl, by decide, rfl⟩, ⟨by decide, rfl⟩, by decide, by decide, ⟨rfl, rfl, by decide, rfl⟩,
    ⟨by decide, rfl⟩, by decide, by decide, by decide, by decide⟩

/-- A halted engine. -/
theorem witness_halted : ({ State.reset with running := false } : State).running = false := rfl

/-- `StepRuns…`: INT at 0000:FFFF, its vector byte wrapped to 0000:0000. -/
theorem witness_step_runs :
    (codeAt 0 0xFFFF [0xCD, 0x21]).running = true ∧
    serviceInterrupts (codeAt 0 0xFFFF [0xCD, 0x21]) = .ok (codeAt 0 0xFFFF [0xCD, 0x21]) ∧
    Instr.wellFormed (codeAt 0 0xFFFF [0xCD, 0x21]).cfg (.intImm8 0x21) = true ∧
    CodeAt (codeAt 0 0xFFFF [0xCD, 0x21]) (.intImm8 0x21) ∧ (encode (.intImm8 0x21))[0]? = some 0xCD := by
  refine ⟨rfl, rfl, rfl, ?_, rfl⟩
  intro k b h
  match k, h with
  | 0, h => cases h; unfold Fits; decide
  | 1, h => cases h; unfold Fits; decide

/-- The opcode, the byte at offset 1 and the word at offset 1 as the first access past the end of memory. -/
theorem witness_fetch_faults :
    ¬ Fits (translate (codeAt 0xFFFF 0x0010 []).segs.cs 0x0010) 1 ∧
    FetchesOpcode (codeAt 0xFFFF 0x000F [0xCD]) (codeAt 0xFFFF 0x000F [0xCD]) 0xCD ∧ (0xCD : Byte) ∈ byteAtOffsetOne ∧
    ¬ Fits (fetchAddress 0xFFFF 0x000F 1) 1 ∧
    FetchesOpcode (codeAt 0xFFFF 0x000E [0xE8]) (codeAt 0xFFFF 0x000E [0xE8]) 0xE8 ∧ (0xE8 : Byte) ∈ wordAtOffsetOne ∧
    ¬ Fits (fetchAddress 0xFFFF 0x000E 1) 2 :=
  ⟨by unfold Fits; decide, ⟨rfl, rfl, by unfold Fits; decide, rfl⟩, by decide, by unfold Fits; decide,
    ⟨rfl, rfl, by unfold Fits; decide, rfl⟩, by decide, by unfold Fits; decide⟩

/-- The word and the byte at offset 2 as the first access past the end of memory. -/
theorem witness_fetch_faults_offset_two :
    FetchesOpcode (codeAt 0xFFFF 0x000D [0x89, 0x06]) (codeAt 0xFFFF 0x000D [0x89, 0x06]) 0x89 ∧
    FetchesModrm (codeAt 0xFFFF 0x000D [0x89, 0x06]) 0x06 ∧ ((0x89, 0x06) : Byte × Byte) ∈ wordAtOffsetTwo ∧
    ¬ Fits (fetchAddress 0xFFFF 0x000D 2) 2 ∧
    FetchesOpcode (codeAt 0xFFFF 0x000E [0x83, 0xE0]) (codeAt 0xFFFF 0x000E [0x83, 0xE0]) 0x83 ∧
    FetchesModrm (codeAt 0xFFFF 0x000E [0x83, 0xE0]) 0xE0 ∧ acceptsModrm defaultConfig 0x83 0xE0 = true ∧
    ¬ Fits (fetchAddress 0xFFFF 0x000E 2) 1 := by
  unfold FetchesOpcode FetchesModrm Fits
  exact ⟨⟨rfl, rfl, by decide, rfl⟩, ⟨by decide, rfl⟩, by decide, by decide, ⟨rfl, rfl, by decide, rfl⟩,
    ⟨by decide, rfl⟩, by decide, by decide⟩

/-- The byte and the word at offset 4 as the first access past the end of memory, the word at offset 2 fitting. -/
theorem witness_fetch_faults_offset_four :
    FetchesOpcode (codeAt 0xFFFF 0x000C [0xC6, 0x06]) (codeAt 0xFFFF 0x000C [0xC6, 0x06]) 0xC6 ∧
    FetchesModrm (codeAt 0xFFFF 0x000C [0xC6, 0x06]) 0x06 ∧ Fits (fetchAddress 0xFFFF 0x000C 2) 2 ∧
    ¬ Fits (fetchAddress 0xFFFF 0x000C 4) 1 ∧
    FetchesOpcode (codeAt 0xFFFF 0x000B [0xC7, 0x06]) (codeAt 0xFFFF 0x000B [0xC7, 0x06]) 0xC7 ∧
    FetchesModrm (codeAt 0xFFFF 0x000B [0xC7, 0x06]) 0x06 ∧ Fits (fetchAddress 0xFFFF 0x000B 2) 2 ∧
    ¬ Fits (fetchAddress 0xFFFF 0x000B 4) 2 := by
  unfold FetchesOpcode FetchesModrm Fits
  exact ⟨⟨rfl, rfl, by decide, rfl⟩, ⟨by decide, rfl⟩, by decide, by decide, ⟨rfl, rfl, by decide, rfl⟩,
    ⟨by decide, rfl⟩, by decide, by decide⟩

/-- IRQ1 taken from a non-empty queue, its three pushes in bounds; IRQ1 not taken. -/
theorem witness_service :
    TakesIrq1 (enqueue 0x1E State.reset) ∧ Fits (below (enqueue 0x1E State.reset) 2) 2 ∧
    Fits (below (enqueue 0x1E State.reset) 4) 2 ∧ Fits (below (enqueue 0x1E State.reset) 6) 2 ∧
    ¬ TakesIrq1 State.reset := by unfold TakesIrq1 Fits; decide

/-- A key waiting and SS:SP given. -/
def keyAndStack (ss sp : Word) : State := enqueue 0x1E (stackAt ss sp)

/-- IRQ1 taken with the first, the second or the third push of its entry the one that does not fit. -/
theorem witness_service_fault :
    TakesIrq1 (keyAndStack 0xFFFF 0x0014) ∧ ¬ Fits (below (keyAndStack 0xFFFF 0x0014) 2) 2 ∧
    TakesIrq1 (keyAndStack 0xF010 0x0002) ∧ Fits (below (keyAndStack 0xF010 0x0002) 2) 2 ∧
    ¬ Fits (below (keyAndStack 0xF010 0x0002) 4) 2 ∧
    TakesIrq1 (keyAndStack 0xF010 0x0004) ∧ Fits (below (keyAndStack 0xF010 0x0004) 2) 2 ∧
    Fits (below (keyAndStack 0xF010 0x0004) 4) 2 ∧ ¬ Fits (below (keyAndStack 0xF010 0x0004) 6) 2 := by
  unfold TakesIrq1 Fits; decide

/-- `IntRightAfterVectorNineIsSkipped`: vector 9 leads to 0100:0000, where INT 0x21 lies. -/
theorem witness_int_in_handler :
    ∃ s1, serviceInterrupts (enqueue 0x1E (codeAt 0x0100 0 [0xCD, 0x21])) = .ok s1 ∧
      (enqueue 0x1E (codeAt 0x0100 0 [0xCD, 0x21])).running = true ∧
      TakesIrq1 (enqueue 0x1E (codeAt 0x0100 0 [0xCD, 0x21])) ∧ CodeAt s1 (.intImm8 0x21) := by
  refine ⟨_, rfl, rfl, by unfold TakesIrq1; decide, ?_⟩
  intro k b h
  match k, h with
  | 0, h => cases h; unfold Fits; decide
  | 1, h => cases h; unfold Fits; decide

/-- A state that meets the invariant and whose step answers a next state. -/
theorem witness_invariant : (codeAt 0 0x100 [0xF4]).Inv ∧ ∃ t, step (codeAt 0 0x100 [0xF4]) = .next t :=
  ⟨⟨by decide, by decide, by decide, by decide, by decide, by decide⟩, _, rfl⟩

/-- The longest blob that is loaded and the shortest that is refused. -/
theorem witness_firmware :
    (List.replicate 0xFFF00 (0 : Byte)).length ≤ 0xFFF00 ∧ 0xFFF00 < (List.replicate 0xFFF01 (0 : Byte)).length := by
  simp only [List.length_replicate]; decide

end Sys2Proof.Tests
end

section
/-! PROOFS. The flag updater and the packed FLAGS word (10_state.md R27 to R30). -/

namespace Sys2Proof.Proofs

open Sys2Proof.Machine Sys2Proof.Claims

/-! ## The updater -/

/-- The number of elements that meet `p` is even exactly when the XOR over all of them is 0. -/
theorem even_length_filter (p : Nat → Bool) (l : List Nat) :
    ((l.filter p).length % 2 == 0) = !(l.foldr (fun k b => p k ^^ b) false) := by
  induction l with
  | nil => rfl
  | cons k l ih =>
    cases hk : p k with
    | false => simpa [hk] using ih
    | true =>
      rw [List.filter_cons_of_pos hk, List.length_cons, List.foldr_cons, hk, Bool.true_xor, ← ih]
      rcases Nat.mod_two_eq_zero_or_one (l.filter p).length with h | h <;> simp [h, Nat.add_mod]

theorem evenBits_eq_not_xorFold (b : Byte) : evenBits b = !xorFold b := by
  rw [evenBits, even_length_filter]
  simp [xorFold, List.range, List.range.loop]

theorem parityOf_eq (c : Config) (b : Byte) : parityOf c b = parityFlag c b := by
  simp [parityOf, parityFlag, evenBits_eq_not_xorFold]

theorem beq_zero_eq_decide {w : Nat} (v : BitVec w) : (v == 0) = decide (v.toNat = 0) := by
  rw [Bool.eq_iff_iff]
  simp [BitVec.toNat_eq]

theorem top_bit_eq_decide (v : Word) : v.getLsbD 15 = decide (0x8000 ≤ v.toNat) :=
  (BitVec.msb_eq_getLsbD_last v).symm.trans (BitVec.msb_eq_decide v)

theorem top_bit_byte_eq_decide (r : Byte) : r.getLsbD 7 = decide (0x80 ≤ r.toNat) :=
  (BitVec.msb_eq_getLsbD_last r).symm.trans (BitVec.msb_eq_decide r)

theorem updateFlags_eq (c : Config) (v : Word) (f : Flags) : updateFlags c v f = withZsp c v f := by
  rw [updateFlags, withZsp, beq_zero_eq_decide, top_bit_eq_decide, parityOf_eq]

theorem toNat_zext16 (r : Byte) : (zext16 r).toNat = r.toNat :=
  BitVec.toNat_setWidth_of_le (by decide)

theorem lowByte_zext16 (r : Byte) : lowByte (zext16 r) = r := by
  apply BitVec.eq_of_getLsbD_eq
  intro i hi
  simp [lowByte, zext16, hi, hi.trans (show 8 < 16 by decide)]

/-- A zero-extended byte is zero when the byte is, has bit 15 clear, and the byte as its low byte. -/
theorem withZsp_zext16 (c : Config) (r : Byte) (f : Flags) : withZsp c (zext16 r) f =
    { f with zero := decide (r.toNat = 0), sign := false, parity := parityFlag c r } := by
  have := r.isLt
  have hsign : decide (0x8000 ≤ r.toNat) = false := decide_eq_false (by omega)
  rw [withZsp, toNat_zext16, lowByte_zext16, hsign]

theorem updateFlagsByte_eq (c : Config) (r : Byte) (f : Flags) : updateFlagsByte c r f = withZspByte c r f := by
  simp only [updateFlagsByte, withZspByte, updateFlags_eq, withZsp_zext16]
  cases c.byteSfBit with
  | bit15 => rfl
  | bit7 => simp only [top_bit_byte_eq_decide]

/-- Settles O5, field by field. -/
theorem updateFlagsWritesZeroSignParity : Obligations.UpdateFlagsWritesZeroSignParity := by
  unfold Obligations.UpdateFlagsWritesZeroSignParity
  intro c f
  exact ⟨fun v => updateFlags_eq c v f, fun r => updateFlagsByte_eq c r f⟩

/-! ## The packed word -/

theorem getLsbD_flagBit (b : Bool) {k : Nat} (hk : k < 16) (j : Nat) :
    (flagBit b k).getLsbD j = (b && decide (j = k)) := by
  cases b with
  | false => simp [flagBit]
  | true =>
    rw [Bool.eq_iff_iff]
    simp [flagBit, BitVec.getLsbD_shiftLeft]
    omega

/-- Bits 6:0 of the packed word are the flags in R29's order, bits 15:7 are clear. -/
theorem getLsbD_packFlags (f : Flags) (j : Nat) : (packFlags f).getLsbD j =
    (f.carry && decide (j = 0) || f.zero && decide (j = 1) || f.sign && decide (j = 2) ||
      f.overflow && decide (j = 3) || f.parity && decide (j = 4) || f.auxiliary && decide (j = 5) ||
      f.interrupt && decide (j = 6)) := by
  simp [packFlags, getLsbD_flagBit]

theorem unpackFlags_packFlags (f : Flags) : unpackFlags (packFlags f) = f := by
  simp only [unpackFlags, getLsbD_packFlags]
  simp

theorem toNat_packFlags (f : Flags) : (packFlags f).toNat = packed f := by
  obtain ⟨c, z, s, o, p, a, i⟩ := f
  revert c z s o p a i
  decide

theorem unpackFlags_low_bits (w : Word) : unpackFlags (w &&& 0x007F) = unpackFlags w := by
  simp [unpackFlags]

theorem packFlags_unpackFlags (w : Word) : packFlags (unpackFlags w) = w &&& 0x007F := by
  apply BitVec.eq_of_getLsbD_eq
  intro j hj
  rw [getLsbD_packFlags, BitVec.getLsbD_and]
  interval_cases j <;> simp [unpackFlags]

/-- Settles O6, bit by bit. -/
theorem unpackFlagsUndoesPackFlags : Obligations.UnpackFlagsUndoesPackFlags := by
  unfold Obligations.UnpackFlagsUndoesPackFlags
  exact ⟨fun f => ⟨toNat_packFlags f, unpackFlags_packFlags f⟩,
    fun w => ⟨(unpackFlags_low_bits w).symm, packFlags_unpackFlags w⟩⟩

end Sys2Proof.Proofs
end

section
/-! PROOFS. The machine at reset (10_state.md R41). -/

namespace Sys2Proof.Proofs

open Sys2Proof.Machine Sys2Proof.Claims

/-- Settles O58: at reset nothing is listed, no bit is set and no fault is recorded. -/
theorem resetMeetsTheInvariant : Obligations.ResetMeetsTheInvariant := by
  unfold Obligations.ResetMeetsTheInvariant
  exact ⟨reset_mem_wf, rfl, rfl, rfl, rfl, fun h => absurd rfl h⟩

/-- At reset every byte is what an unlisted address reads as. -/
theorem reset_byteAt (a : Nat) : State.reset.byteAt a = unlisted State.reset.cfg a := rfl

/-- R62: the first 256 IVT entries, by the place of a byte in its entry. -/
theorem unlisted_ivt (c : Config) {a : Nat} (ha : a < 0x400) : unlisted c a = if a % 4 = 3 then 0x01 else 0x00 :=
  if_pos ha

theorem unlisted_ivt_low (c : Config) {a : Nat} (ha : a < 0x400) (h : a % 4 ≠ 3) : unlisted c a = 0x00 := by
  rw [unlisted_ivt c ha, if_neg h]

/-- R63: the text window. -/
theorem unlisted_text (c : Config) {a : Nat} (h : 0xB8000 ≤ a) (h' : a < 0xB8FA0) :
    unlisted c a = if a % 2 = 0 then 0x20 else c.videoFillAttr := by
  rw [unlisted, if_neg (by omega), if_pos ⟨h, h'⟩]

/-- R65: everything else. -/
theorem unlisted_other (c : Config) {a : Nat} (h : 0x400 ≤ a) (h' : ¬ (0xB8000 ≤ a ∧ a < 0xB8FA0)) :
    unlisted c a = 0x00 := by
  rw [unlisted, if_neg (by omega), if_neg h']

/-- Every IVT entry is 0x0100:0x0000 (R62). -/
theorem reset_ivt (n : Byte) :
    State.reset.wordAt (4 * n.toNat) = 0x0000 ∧ State.reset.wordAt (4 * n.toNat + 2) = 0x0100 := by
  have hn := n.isLt
  simp only [State.wordAt, reset_byteAt]
  rw [unlisted_ivt _ (by omega), unlisted_ivt _ (by omega), unlisted_ivt _ (by omega), unlisted_ivt _ (by omega),
    if_neg (by omega), if_neg (by omega), if_neg (by omega), if_pos (by omega)]
  exact ⟨rfl, rfl⟩

/-- Every text cell is 0x20 beside VIDEO_FILL_ATTR (R63). -/
theorem reset_text (i : Nat) (hi : i < 2000) : State.reset.byteAt (0xB8000 + 2 * i) = 0x20 ∧
    State.reset.byteAt (0xB8000 + 2 * i + 1) = State.reset.cfg.videoFillAttr := by
  simp only [reset_byteAt]
  rw [unlisted_text _ (by omega) (by omega), unlisted_text _ (by omega) (by omega), if_pos (by omega),
    if_neg (by omega)]
  exact ⟨rfl, rfl⟩

/-- Settles O59: the fields as `State.reset` gives them, and memory region by region. -/
theorem resetValues : Obligations.ResetValues := by
  unfold Obligations.ResetValues
  refine ⟨rfl, rfl, rfl, rfl, rfl, fun _ => rfl, rfl, rfl, rfl, rfl, rfl, rfl, reset_ivt, reset_text, ?_⟩
  intro a ha hw
  exact unlisted_other _ ha (by omega)

end Sys2Proof.Proofs
end

section
/-! PROOFS. The keyboard queue is first in, first out (10_state.md R35, 60_exceptions.md R222 to R224). -/

namespace Sys2Proof.Proofs

open Sys2Proof.Machine Sys2Proof.Claims

/-- The queue `k` holds the bytes `l`, the oldest at its head. -/
structure Queued (k : Keyboard) (l : List Byte) : Prop where
  tail : k.tail = k.head + BitVec.ofNat 8 l.length
  slot : ∀ j b, l[j]? = some b → k.slot (k.head + BitVec.ofNat 8 j) = b

theorem queued_nil {k : Keyboard} (h : k.head = k.tail) : Queued k [] := ⟨by simp [h], by simp⟩

theorem Queued.empty {k : Keyboard} (h : Queued k []) : k.head = k.tail := by simpa using h.tail.symm

/-- On a queue that is not full both policies write at the tail and advance it (R222). -/
theorem enqueue_of_not_full {k : Keyboard} (mode : KbdOverflow) (b : Byte) (h : k.tail + 1 ≠ k.head) :
    k.enqueue mode b = { k.setSlot k.tail b with tail := k.tail + 1 } := by
  have hfull : k.isFull = false := beq_eq_false_iff_ne.mpr h
  cases mode with
  | naiveTail => rfl
  | dropOldest => simp only [Keyboard.enqueue, hfull, Bool.false_eq_true, if_false]

theorem Queued.enqueue {k : Keyboard} {l : List Byte} (h : Queued k l) (hl : l.length < 255) (mode : KbdOverflow)
    (b : Byte) : Queued (k.enqueue mode b) (l ++ [b]) := by
  have htail := h.tail
  have hfull : k.tail + 1 ≠ k.head := by bv_omega
  rw [enqueue_of_not_full mode b hfull]
  refine ⟨?_, fun j c hj => ?_⟩
  · show k.tail + 1 = k.head + _
    rw [htail, List.length_append, BitVec.add_assoc, BitVec.ofNat_add]
    rfl
  · show (k.setSlot k.tail b).slot (k.head + BitVec.ofNat 8 j) = c
    rw [Keyboard.slot_setSlot]
    rcases lt_trichotomy j l.length with hlt | rfl | hgt
    · have hother : k.head + BitVec.ofNat 8 j ≠ k.tail := by bv_omega
      rw [if_neg hother]
      rw [List.getElem?_append_left hlt] at hj
      exact h.slot j c hj
    · rw [if_pos htail.symm]
      simpa using hj
    · rw [List.getElem?_eq_none (by simp; omega)] at hj
      exact absurd hj nofun

/-- The queue after the bytes `bs` are enqueued one by one. -/
abbrev enqueueAll (mode : KbdOverflow) (bs : List Byte) (k : Keyboard) : Keyboard :=
  bs.foldl (fun k b => k.enqueue mode b) k

theorem Queued.enqueueAll {k : Keyboard} {l : List Byte} (h : Queued k l) (mode : KbdOverflow) {bs : List Byte}
    (hl : l.length + bs.length ≤ 255) : Queued (enqueueAll mode bs k) (l ++ bs) := by
  induction bs generalizing k l with
  | nil => simpa using h
  | cons b bs ih =>
    rw [List.length_cons] at hl
    have hq := ih (h.enqueue (by omega) mode b) (by simp; omega)
    simpa using hq

/-- A read of a queue that is not empty answers the slot at the head and advances the head (R223, R224). -/
theorem read60_of_not_empty {k : Keyboard} (h : k.head ≠ k.tail) :
    k.read60.1 = k.slot k.head ∧ k.read60.2.head = k.head + 1 := by
  have hempty : k.isEmpty = false := beq_eq_false_iff_ne.mpr h
  simp only [Keyboard.read60, hempty, Bool.false_eq_true, if_false, Keyboard.dequeue]
  exact ⟨trivial, (apply_ite Keyboard.head ..).trans (ite_self _)⟩

theorem Queued.read60 {k : Keyboard} {b : Byte} {l : List Byte} (h : Queued k (b :: l)) (hl : l.length < 255) :
    k.read60.1 = b ∧ Queued k.read60.2 l := by
  have htail := h.tail
  rw [List.length_cons] at htail
  obtain ⟨hval, hhead⟩ := read60_of_not_empty (k := k) (by bv_omega)
  obtain ⟨hbuf, htail'⟩ := k.read60_buf
  have hslot (i : Byte) : k.read60.2.slot i = k.slot i := by rw [Keyboard.slot, Keyboard.slot, hbuf]
  refine ⟨?_, ?_, fun j c hj => ?_⟩
  · have h0 := h.slot 0 b rfl
    rwa [show k.head + BitVec.ofNat 8 0 = k.head by simp, ← hval] at h0
  · rw [htail', hhead, htail]
    bv_omega
  · have hj' := h.slot (j + 1) c hj
    rw [hslot, hhead, ← hj']
    congr 1
    bv_omega

/-- Reading as often as there are bytes answers them in order and empties the queue. -/
theorem Queued.drain {k : Keyboard} {l : List Byte} (h : Queued k l) (hl : l.length ≤ 255) :
    (drain l.length k).1 = l ∧ (drain l.length k).2.head = (drain l.length k).2.tail := by
  induction l generalizing k with
  | nil => exact ⟨rfl, h.empty⟩
  | cons b l ih =>
    rw [List.length_cons] at hl
    obtain ⟨hval, hq⟩ := h.read60 (by omega)
    obtain ⟨hbytes, hempty⟩ := ih hq (by omega)
    exact ⟨by rw [List.length_cons, Claims.drain, hval, hbytes], hempty⟩

/-- Enqueued bytes go to the queue one by one; the parameters stay (R222). -/
theorem enqueueAll_kbd (bs : List Byte) (s : State) : (bs.foldl (fun u b => enqueue b u) s).kbd =
    enqueueAll s.cfg.kbdOverflow bs s.kbd := by
  induction bs generalizing s with
  | nil => rfl
  | cons b bs ih => exact ih (enqueue b s)

/-- Under NAIVE_TAIL the tail advances once per byte, modulo 256, and the head stays (R222, D16). -/
theorem naiveTail_enqueueAll (bs : List Byte) (k : Keyboard) :
    (enqueueAll .naiveTail bs k).head = k.head ∧
      (enqueueAll .naiveTail bs k).tail = k.tail + BitVec.ofNat 8 bs.length := by
  induction bs generalizing k with
  | nil => simp
  | cons b bs ih =>
    obtain ⟨hhead, htail⟩ := ih (k.enqueue .naiveTail b)
    refine ⟨hhead, htail.trans ?_⟩
    show k.tail + 1 + _ = _
    rw [List.length_cons]
    bv_omega

theorem read60_of_empty {k : Keyboard} (h : k.head = k.tail) : k.read60 = (0x00, k) :=
  if_pos (beq_iff_eq.mpr h)

/-- Settles O30: up to 255 bytes the queue holds what was enqueued; 256 bytes bring the tail back to the head. -/
theorem keyboardQueueIsFirstInFirstOut : Obligations.KeyboardQueueIsFirstInFirstOut := by
  unfold Obligations.KeyboardQueueIsFirstInFirstOut
  refine ⟨fun s bs hempty hlen => ?_, fun s bs hempty hmode hlen => ?_⟩
  · have hq := (queued_nil hempty).enqueueAll s.cfg.kbdOverflow (bs := bs) (by simpa using hlen)
    dsimp only
    rw [enqueueAll_kbd]
    exact hq.drain hlen
  · have htail := naiveTail_enqueueAll bs s.kbd
    rw [← hmode, ← enqueueAll_kbd, hlen] at htail
    obtain ⟨hhead, htail⟩ := htail
    have hwrap : (bs.foldl (fun u b => enqueue b u) s).kbd.head = (bs.foldl (fun u b => enqueue b u) s).kbd.tail := by
      rw [hhead, htail, hempty]
      simp
    exact ⟨hwrap, read60_of_empty hwrap⟩

end Sys2Proof.Proofs
end

section
/-! PROOFS. How a computation that may fault ends, and the one reasoning rule of each shared operation. -/

namespace Sys2Proof.Proofs

open Sys2Proof.Machine Sys2Proof.Claims

/-- `x` answers a value that meets `ok`, or stops with an error that meets `err`. -/
def Ends {ε α : Type} (ok : α → Prop) (err : ε → Prop) : Except ε α → Prop
  | .ok a => ok a
  | .error e => err e

section
variable {ε α β : Type} {P : α → Prop} {Q : β → Prop} {E E' : ε → Prop} {x : Except ε α} {f : α → Except ε β}

theorem ends_iff : Ends P E x ↔ (∀ a, x = .ok a → P a) ∧ ∀ e, x = .error e → E e := by
  cases x <;> simp [Ends]

theorem Ends.bind (hx : Ends P E x) (hf : ∀ a, P a → Ends Q E (f a)) : Ends Q E (x >>= f) := by
  cases x with
  | ok a => exact hf a hx
  | error e => exact hx

theorem Ends.imp_ok {P' : α → Prop} (hx : Ends P E x) (h : ∀ a, P a → P' a) : Ends P' E x := by
  cases x with
  | ok a => exact h a hx
  | error e => exact hx

theorem Ends.imp_error (hx : Ends P E x) (h : ∀ e, E e → E' e) : Ends P E' x := by
  cases x with
  | ok a => exact hx
  | error e => exact h e hx

end

/-! ## What registers, memory and a fault may change -/

/-- From `s` to `t` general registers and bytes of memory may have changed, memory keeping its canonical form, and
nothing else. -/
structure RegsMemOnly (s t : State) : Prop where
  eq : t = { s with regs := t.regs, mem := t.mem }
  wf : Memory.wf s.cfg s.mem = true → Memory.wf s.cfg t.mem = true

theorem RegsMemOnly.refl (s : State) : RegsMemOnly s s := ⟨rfl, id⟩

theorem RegsMemOnly.trans {s t u : State} (h : RegsMemOnly s t) (h' : RegsMemOnly t u) : RegsMemOnly s u where
  eq := by rw [h'.eq, h.eq]
  wf hs := by
    have ht := h'.wf
    rw [h.eq] at ht
    exact ht (h.wf hs)

theorem RegsMemOnly.flags {s t : State} (h : RegsMemOnly s t) : t.flags = s.flags := by rw [h.eq]

theorem RegsMemOnly.segs {s t : State} (h : RegsMemOnly s t) : t.segs = s.segs := by rw [h.eq]

theorem RegsMemOnly.pic {s t : State} (h : RegsMemOnly s t) : t.pic = s.pic := by rw [h.eq]

theorem regsMemOnly_setReg (s : State) (r : Reg16) (v : Word) : RegsMemOnly s (s.setReg r v) := ⟨rfl, id⟩

theorem regsMemOnly_setWord {s : State} {a : Nat} (v : Word) (ha : a + 2 ≤ 0x100000) :
    RegsMemOnly s (s.setWord a v) := ⟨rfl, State.wf_setWord s v ha⟩

theorem regsMemOnly_setByte {s : State} {a : Nat} (v : Byte) (ha : a + 1 ≤ 0x100000) :
    RegsMemOnly s (s.setByte a v) := ⟨rfl, State.wf_setByte s v ha⟩

/-- `h` is Halted by a MemoryFault past the end of memory, raised after changes of registers and memory only. -/
def MemoryFaulted (o : Word) (s h : State) : Prop :=
  ∃ u a, RegsMemOnly s u ∧ 0xFFFFF ≤ a ∧ u.memoryFault a o = h

/-- A fault raised after changes of registers and memory is one from the state before them. -/
theorem Ends.after {α : Type} {P : α → Prop} {o : Word} {s u : State} {x : Except State α} (hu : RegsMemOnly s u)
    (hx : Ends P (MemoryFaulted o u) x) : Ends P (MemoryFaulted o s) x :=
  hx.imp_error fun _ ⟨u', a, hu', ha, h⟩ => ⟨u', a, hu.trans hu', ha, h⟩

/-! ## Accesses and the stack -/

variable {o : Word} {s : State}

theorem ends_read8 (a : Nat) : Ends (fun _ => True) (MemoryFaulted o s) (read8 o a s) := by
  refine ends_iff.mpr ⟨fun _ _ => trivial, fun h hr => ?_⟩
  obtain ⟨ha, rfl⟩ := read8_eq_error.mp hr
  exact ⟨s, a, .refl s, by omega, rfl⟩

theorem ends_read16 (a : Nat) : Ends (fun _ => True) (MemoryFaulted o s) (read16 o a s) := by
  refine ends_iff.mpr ⟨fun _ _ => trivial, fun h hr => ?_⟩
  obtain ⟨ha, rfl⟩ := read16_eq_error.mp hr
  exact ⟨s, a, .refl s, by omega, rfl⟩

theorem ends_write8 (a : Nat) (v : Byte) : Ends (RegsMemOnly s) (MemoryFaulted o s) (write8 o a v s) := by
  refine ends_iff.mpr ⟨fun t hw => ?_, fun h hw => ?_⟩
  · obtain ⟨ha, rfl⟩ := write8_eq_ok.mp hw
    exact regsMemOnly_setByte v ha
  · obtain ⟨ha, rfl⟩ := write8_eq_error.mp hw
    exact ⟨s, a, .refl s, by omega, rfl⟩

theorem ends_write16 (a : Nat) (v : Word) : Ends (RegsMemOnly s) (MemoryFaulted o s) (write16 o a v s) := by
  refine ends_iff.mpr ⟨fun t hw => ?_, fun h hw => ?_⟩
  · obtain ⟨ha, rfl⟩ := write16_eq_ok.mp hw
    exact regsMemOnly_setWord v ha
  · obtain ⟨ha, rfl⟩ := write16_eq_error.mp hw
    exact ⟨s, a, .refl s, by omega, rfl⟩

theorem ends_push (v : Word) : Ends (RegsMemOnly s) (MemoryFaulted o s) (push o v s) :=
  have hsp := regsMemOnly_setReg s .sp (s.regs.sp - 2)
  .after hsp ((ends_write16 _ v).imp_ok fun _ => hsp.trans)

theorem ends_pop : Ends (fun r => RegsMemOnly s r.2) (MemoryFaulted o s) (pop o s) :=
  (ends_read16 _).bind fun _ _ => regsMemOnly_setReg s .sp _

/-! ## Interrupt entry and return (R212, R191) -/

/-- What an interrupt entry from `s` that succeeds leaves: registers and memory apart, IP, CS, IF and ISR. -/
def Entered (s t : State) : Prop :=
  ∃ u ip cs, RegsMemOnly s u ∧ t = (((u.setIp ip).setSeg .cs cs).setFlags { s.flags with interrupt := false }).setPic
    { s.pic with isr := s.pic.isr ||| irq1 }

theorem ends_enterInterrupt (n : Byte) (ret : Word) :
    Ends (Entered s) (MemoryFaulted o s) (enterInterrupt o n ret s) :=
  (ends_push _).bind fun _ r1 => .after r1 <| (ends_push _).bind fun _ r2 => .after r2 <|
    (ends_push _).bind fun s3 r3 => .after r3 <| (ends_read16 _).bind fun ip _ => (ends_read16 _).bind fun cs _ =>
      have r := r1.trans (r2.trans r3)
      ⟨s3, ip, cs, r, by rw [← r.flags, ← r.pic]⟩

/-- What a return from an interrupt from `s` that succeeds leaves: registers and memory apart, IP, CS, the flags and
ISR. -/
def Returned (s t : State) : Prop :=
  ∃ u ip cs f, RegsMemOnly s u ∧ t = (((u.setIp ip).setSeg .cs cs).setFlags f).setPic { s.pic with isr := 0x00 }

theorem ends_interruptReturn : Ends (Returned s) (MemoryFaulted o s) (interruptReturn o s) :=
  ends_pop.bind fun p1 r1 => .after r1 <| ends_pop.bind fun p2 r2 => .after r2 <| ends_pop.bind fun p3 r3 =>
    have r := r1.trans (r2.trans r3)
    ⟨p3.2, p1.1, p2.1, unpackFlags p3.1, r, by rw [← r.pic]⟩

end Sys2Proof.Proofs
end

section
/-! PROOFS. The invariant under each update of the state. -/

namespace Sys2Proof.Proofs

open Sys2Proof.Machine Sys2Proof.Claims

variable {s t u : State}

/-- The invariant does not look at registers, IP, the flags or `last_instruction`. -/
theorem inv_of_unwatched (h : s.Inv) (r : Regs) (g : Segs) (p : Word) (f : Flags) (l : Byte) :
    ({ s with regs := r, segs := g, ip := p, flags := f, lastInstruction := l } : State).Inv :=
  ⟨h.mem, h.kbd, h.irr, h.isr, h.status, h.diag⟩

theorem RegsMemOnly.inv (h : RegsMemOnly s t) (hs : s.Inv) : t.Inv := by
  rw [h.eq]
  exact ⟨h.wf hs.mem, hs.kbd, hs.irr, hs.isr, hs.status, hs.diag⟩

theorem inv_setPic {p : Pic} (h : s.Inv) (irr : p.irr &&& ~~~irq1 = 0) (isr : p.isr &&& ~~~irq1 = 0) :
    (s.setPic p).Inv := ⟨h.mem, h.kbd, irr, isr, h.status, h.diag⟩

theorem inv_setKbd {k : Keyboard} (h : s.Inv) (wf : k.wf = true) (status : k.status &&& ~~~0x01 = 0) :
    (s.setKbd k).Inv := ⟨h.mem, wf, h.irr, h.isr, status, h.diag⟩

/-- Every fatal fault halts, so it may record its diagnostic. -/
theorem inv_raise (h : s.Inv) (k : FaultKind) (a : Option Nat) (o : Word) : (s.raise k a o).Inv :=
  ⟨h.mem, h.kbd, h.irr, h.isr, h.status, fun _ => rfl⟩

theorem MemoryFaulted.inv {o : Word} (h : MemoryFaulted o s t) (hs : s.Inv) : t.Inv := by
  obtain ⟨u, a, hu, -, rfl⟩ := h
  exact inv_raise (hu.inv hs) _ _ _

/-- Setting bits leaves the other bits as they were. -/
theorem or_and_not (b m : Byte) : (b ||| m) &&& ~~~m = b &&& ~~~m := by
  ext i hi
  simp [Bool.and_or_distrib_right]

theorem Entered.inv (h : Entered s t) (hs : s.Inv) : t.Inv := by
  obtain ⟨u, ip, cs, hu, rfl⟩ := h
  refine inv_setPic (inv_of_unwatched (hu.inv hs) _ _ _ _ _) hs.irr ?_
  rw [or_and_not, hs.isr]

theorem Returned.inv (h : Returned s t) (hs : s.Inv) : t.Inv := by
  obtain ⟨u, ip, cs, f, hu, rfl⟩ := h
  exact inv_setPic (inv_of_unwatched (hu.inv hs) _ _ _ _ _) hs.irr BitVec.zero_and

/-- The poll only sets bits that the invariant allows (R211). -/
theorem inv_pollKeyboard (h : s.Inv) : (pollKeyboard s).Inv := by
  have hirr := (or_and_not s.pic.irr irq1).trans h.irr
  have hstatus := (or_and_not s.kbd.status 0x01).trans h.status
  unfold pollKeyboard
  split
  · exact inv_setKbd (inv_setPic h hirr h.isr) h.kbd hstatus
  · exact h

/-- A read of port 0x60 keeps the status byte or clears its bit 0 (R224). -/
theorem read60_status (k : Keyboard) : k.read60.2.status = k.status ∨ k.read60.2.status = k.status &&& ~~~0x01 := by
  unfold Keyboard.read60
  split
  · exact .inl rfl
  · dsimp only [Keyboard.dequeue]
    split
    · exact .inr rfl
    · exact .inl rfl

/-- Only a read of port 0x60 changes the queue (R226). -/
theorem portRead_kbd (p : Byte) (s : State) :
    (portRead p s).2.kbd = s.kbd ∨ (portRead p s).2.kbd = s.kbd.read60.2 := by
  unfold portRead
  split
  · exact .inr rfl
  · left
    split
    · rfl
    · split <;> rfl

theorem inv_portRead (p : Byte) (h : s.Inv) : (portRead p s).2.Inv := by
  rw [portRead_state]
  rcases portRead_kbd p s with e | e <;> rw [e]
  · exact h
  · refine inv_setKbd h ?_ ?_
    · rw [Keyboard.wf, s.kbd.read60_buf.1]
      exact h.kbd
    · rcases read60_status s.kbd with e | e <;> rw [e]
      · exact h.status
      · rw [h.status]; exact BitVec.zero_and

/-- A port write changes IMR, which the invariant does not look at, or clears ISR (R227). -/
theorem inv_portWrite (p v : Byte) (h : s.Inv) : (portWrite p v s).Inv := by
  unfold portWrite
  split
  · exact inv_setPic h h.irr h.isr
  · split
    · split
      · exact inv_setPic h h.irr BitVec.zero_and
      · exact h
    · exact h

end Sys2Proof.Proofs
end

section
/-! PROOFS. Every instruction completes within what its rule may write, or halts with a MemoryFault. -/

namespace Sys2Proof.Proofs

open Sys2Proof.Machine Sys2Proof.Claims

variable {i : Instr} {s t u : State} {f : Flags}

/-- `f` differs from the flags of `s` only in flags that `i` may write (R31). -/
structure FlagsKept (i : Instr) (s : State) (f : Flags) : Prop where
  overflow  : i ≠ .iret → f.overflow = s.flags.overflow
  auxiliary : i ≠ .iret → f.auxiliary = s.flags.auxiliary
  interrupt : (writes s i).interrupt = false → f.interrupt = s.flags.interrupt
  carry     : (writes s i).carry = false → f.carry = s.flags.carry
  zsp       : (writes s i).zsp = false →
    f.zero = s.flags.zero ∧ f.sign = s.flags.sign ∧ f.parity = s.flags.parity

theorem FlagsKept.refl : FlagsKept i s s.flags :=
  ⟨fun _ => rfl, fun _ => rfl, fun _ => rfl, fun _ => rfl, fun _ => ⟨rfl, rfl, rfl⟩⟩

theorem FlagsKept.setCarry (h : FlagsKept i s f) (hc : (writes s i).carry = true) (b : Bool) :
    FlagsKept i s { f with carry := b } :=
  ⟨h.overflow, h.auxiliary, h.interrupt, by simp [hc], h.zsp⟩

theorem FlagsKept.setInterrupt (h : FlagsKept i s f) (hi : (writes s i).interrupt = true) (b : Bool) :
    FlagsKept i s { f with interrupt := b } :=
  ⟨h.overflow, h.auxiliary, by simp [hi], h.carry, h.zsp⟩

theorem FlagsKept.setZsp (h : FlagsKept i s f) (hz : (writes s i).zsp = true) (z n p : Bool) :
    FlagsKept i s { f with zero := z, sign := n, parity := p } :=
  ⟨h.overflow, h.auxiliary, h.interrupt, h.carry, by simp [hz]⟩

theorem FlagsKept.update (h : FlagsKept i s f) (hz : (writes s i).zsp = true) (c : Config) (v : Word) :
    FlagsKept i s (updateFlags c v f) := h.setZsp hz ..

theorem FlagsKept.updateByte (h : FlagsKept i s f) (hz : (writes s i).zsp = true) (c : Config) (r : Byte) :
    FlagsKept i s (updateFlagsByte c r f) := by
  unfold updateFlagsByte
  split <;> exact h.setZsp hz ..

/-- From `s` to `t` the instruction `i` has completed: nothing has changed that its rule does not write (R24, R31), the
engine is as it was unless `i` is HLT, and the invariant is kept. Registers, IP and bytes of memory are left open. -/
structure Completes (i : Instr) (s t : State) : Prop where
  segs            : ∀ r, r ∉ (writes s i).segs → t.seg r = s.seg r
  flags           : FlagsKept i s t.flags
  running         : i ≠ .hlt → t.running = s.running
  diag            : t.diag = s.diag
  lastInstruction : t.lastInstruction = s.lastInstruction
  cfg             : t.cfg = s.cfg
  inv             : s.Inv → t.Inv

theorem RegsMemOnly.completes (h : RegsMemOnly s t) : Completes i s t := by
  have hinv := h.inv
  rw [h.eq] at hinv ⊢
  exact ⟨fun _ _ => rfl, .refl, fun _ => rfl, rfl, rfl, rfl, hinv⟩

/-- Registers and IP are not in view. -/
theorem Completes.move (h : Completes i s t) (r : Regs) (p : Word) : Completes i s { t with regs := r, ip := p } :=
  ⟨h.segs, h.flags, h.running, h.diag, h.lastInstruction, h.cfg, fun hs => inv_of_unwatched (h.inv hs) _ _ _ _ _⟩

theorem Completes.setFlags (h : Completes i s t) (hf : FlagsKept i s f) : Completes i s (t.setFlags f) :=
  ⟨h.segs, hf, h.running, h.diag, h.lastInstruction, h.cfg, fun hs => inv_of_unwatched (h.inv hs) _ _ _ _ _⟩

theorem Completes.setSeg (h : Completes i s t) {r : SegReg} (hr : r ∈ (writes s i).segs) (v : Word) :
    Completes i s (t.setSeg r v) where
  segs q hq := by
    have hne : q ≠ r := fun e => hq (e ▸ hr)
    rw [State.seg_setSeg, if_neg hne]
    exact h.segs q hq
  flags := h.flags
  running := h.running
  diag := h.diag
  lastInstruction := h.lastInstruction
  cfg := h.cfg
  inv hs := inv_of_unwatched (h.inv hs) _ _ _ _ _

/-- A port read changes the queue only. -/
theorem completes_portRead (p : Byte) : Completes i s (portRead p s).2 := by
  have hinv := inv_portRead p (s := s)
  rw [portRead_state] at hinv ⊢
  exact ⟨fun _ _ => rfl, .refl, fun _ => rfl, rfl, rfl, rfl, hinv⟩

/-- A port write changes the PIC only. -/
theorem completes_portWrite (p v : Byte) : Completes i s (portWrite p v s) := by
  have hinv := inv_portWrite p v (s := s)
  obtain ⟨isr, imr, e⟩ := portWrite_state p v s
  rw [e] at hinv ⊢
  exact ⟨fun _ _ => rfl, .refl, fun _ => rfl, rfl, rfl, rfl, hinv⟩

theorem Entered.completes (h : Entered s t) (hcs : .cs ∈ (writes s i).segs) (hi : (writes s i).interrupt = true) :
    Completes i s t := by
  have hinv := h.inv
  obtain ⟨u, ip, cs, hu, rfl⟩ := h
  have hc : Completes i s _ :=
    ((hu.completes.move u.regs ip).setSeg hcs cs).setFlags (FlagsKept.refl.setInterrupt hi false)
  exact ⟨hc.segs, hc.flags, hc.running, hc.diag, hc.lastInstruction, hc.cfg, hinv⟩

theorem Returned.completes (h : Returned s t) : Completes .iret s t := by
  have hinv := h.inv
  obtain ⟨u, ip, cs, f, hu, rfl⟩ := h
  have hf : FlagsKept .iret s f := ⟨nofun, nofun, nofun, nofun, nofun⟩
  have hc : Completes .iret s _ := ((hu.completes.move u.regs ip).setSeg (.head _) cs).setFlags hf
  exact ⟨hc.segs, hc.flags, hc.running, hc.diag, hc.lastInstruction, hc.cfg, hinv⟩

theorem completes_hlt : Completes .hlt s ({ s with running := false }.advance 1) :=
  ⟨fun _ _ => rfl, .refl, fun h => absurd rfl h, rfl, rfl, rfl,
    fun hs => ⟨hs.mem, hs.kbd, hs.irr, hs.isr, hs.status, fun _ => rfl⟩⟩

/-! ## The shapes of the meanings -/

/-- Registers and IP only. -/
theorem completes_move (r : Regs) (p : Word) : Completes i s { s with regs := r, ip := p } :=
  (RegsMemOnly.refl s).completes.move r p

/-- Registers, flags and IP only. -/
theorem completes_flags (r : Regs) (p : Word) (hf : FlagsKept i s f) :
    Completes i s { s with regs := r, flags := f, ip := p } :=
  (completes_move r p).setFlags hf

theorem next_completes (h : (.next u : Host.Outcome State Fault Refusal) = .next t) (hu : Completes i s u) :
    Completes i s t ∨ MemoryFaulted s.opip s t := by
  cases h
  exact .inl hu

theorem finish_completes {r : Except State State} (h : finish r = .next t)
    (hr : Ends (Completes i s) (MemoryFaulted s.opip s) r) : Completes i s t ∨ MemoryFaulted s.opip s t := by
  rcases finish_eq_next.mp h with rfl | rfl
  · exact .inl hr
  · exact .inr hr

/-- CF and the three result flags, for the forms whose rule writes them. -/
theorem FlagsKept.arith (hc : (writes s i).carry = true) (hz : (writes s i).zsp = true) (c : Config) (b : Bool)
    (v : Word) : FlagsKept i s (updateFlags c v { s.flags with carry := b }) :=
  (FlagsKept.refl.setCarry hc b).update hz c v

/-- What an instruction can do, said once: it completes within what its rule writes, or halts with a MemoryFault. -/
theorem exec_completes_or_faults (h : exec i s = .next t) : Completes i s t ∨ MemoryFaulted s.opip s t := by
  cases i with
  -- registers and IP only
  | movR8Imm8 r _ => exact next_completes h (by cases r <;> exact completes_move ..)
  | jc _ | jnc _ | je _ | jne _ | ja _ | jmpRel16 _ | jmpRel8 _ => exact next_completes h (completes_move ..)
  -- a register and flags
  | movR16Imm16 _ _ | xorAxAx | xorBxBx =>
    exact next_completes h (completes_flags _ _ (FlagsKept.refl.update rfl ..))
  | addAxBx | addAxImm16 _ | subAxBx | subAxImm16 _ | cmpAxBx | cmpAxImm8 _ _ | mulAl =>
    exact next_completes h (completes_flags _ _ (.arith rfl rfl ..))
  | cmpAlImm8 _ =>
    exact next_completes h (completes_flags _ _ ((FlagsKept.refl.setCarry rfl _).updateByte rfl ..))
  | cli | sti => exact next_completes h (completes_flags _ _ (FlagsKept.refl.setInterrupt rfl _))
  -- a segment register
  | movDsAx | movEsAx | movSsAx => exact next_completes h (((completes_move ..).setSeg (.head _) _).move ..)
  -- a byte or a word is read
  | movAlA16 _ | lodsb => exact finish_completes h ((ends_read8 _).bind fun _ _ => completes_move ..)
  | movAxA16 _ => exact finish_completes h ((ends_read16 _).bind fun _ _ => completes_move ..)
  | movAxD16 _ =>
    exact finish_completes h ((ends_read16 _).bind fun _ _ => completes_flags _ _ (FlagsKept.refl.update rfl ..))
  | addAxD16 _ | addAxSi | subAxD16 _ | cmpAxD16 _ =>
    exact finish_completes h ((ends_read16 _).bind fun _ _ => completes_flags _ _ (.arith rfl rfl ..))
  | mulByteBx => exact finish_completes h ((ends_read8 _).bind fun _ _ => completes_flags _ _ (.arith rfl rfl ..))
  -- a byte or a word is written
  | movByteD16Imm8 _ _ | stosb =>
    exact finish_completes h ((ends_write8 _ _).bind fun _ hu => hu.completes.move ..)
  | movD16Ax _ | movWordD16Imm16 _ _ | movWordSiImm16 _ =>
    exact finish_completes h ((ends_write16 _ _).bind fun _ hu => hu.completes.move ..)
  -- read, then written
  | addD16Ax _ =>
    exact finish_completes h ((ends_read16 _).bind fun _ _ => (ends_write16 _ _).bind fun _ hu =>
      (hu.completes.setFlags (.arith rfl rfl ..)).move ..)
  | incByteD16 _ | decByteD16 _ =>
    exact finish_completes h ((ends_read8 _).bind fun _ _ => (ends_write8 _ _).bind fun _ hu =>
      (hu.completes.setFlags (FlagsKept.refl.updateByte rfl ..)).move ..)
  -- the stack
  | pushAx | pushCs | callRel16 _ => exact finish_completes h ((ends_push _).bind fun _ hu => hu.completes.move ..)
  | popAx | ret => exact finish_completes h (ends_pop.bind fun _ hu => hu.completes.move ..)
  | popDs | popEs => exact finish_completes h (ends_pop.bind fun _ hu => (hu.completes.setSeg (.head _) _).move ..)
  -- ports
  | inAlImm8 _ | inAxImm8 _ => exact next_completes h ((completes_portRead _).move ..)
  | outImm8Al _ | outImm8Ax _ => exact next_completes h ((completes_portWrite ..).move ..)
  -- interrupts and the engine
  | intImm8 n =>
    by_cases hi : s.flags.interrupt = true
    · simp only [exec, execIntImm8, if_pos hi] at h
      exact finish_completes h ((ends_enterInterrupt ..).imp_ok fun _ he =>
        he.completes (by simp [writes, hi]) (by simp [writes, hi]))
    · simp only [exec, execIntImm8, if_neg hi] at h
      exact next_completes h (completes_move ..)
  | iret => exact finish_completes h (ends_interruptReturn.imp_ok fun _ => Returned.completes)
  | hlt => exact next_completes h completes_hlt

end Sys2Proof.Proofs
end

section
/-! PROOFS. The frames over every instruction, and the invariant over every step. -/

namespace Sys2Proof.Proofs

open Sys2Proof.Machine Sys2Proof.Claims

variable {s t : State}

/-! ## Frames -/

theorem MemoryFaulted.segs {o : Word} (h : MemoryFaulted o s t) : t.segs = s.segs := by
  obtain ⟨u, a, hu, -, rfl⟩ := h
  exact hu.segs

theorem MemoryFaulted.flags {o : Word} (h : MemoryFaulted o s t) : t.flags = s.flags := by
  obtain ⟨u, a, hu, -, rfl⟩ := h
  exact hu.flags

/-- An instruction that ends, completed or faulting, keeps the segment registers its rule does not write. -/
theorem exec_segs {i : Instr} (h : exec i s = .next t) : ∀ r, r ∉ (writes s i).segs → t.seg r = s.seg r := by
  rcases exec_completes_or_faults h with hc | hf
  · exact hc.segs
  · intro r _
    cases r <;> simp only [State.seg, hf.segs]

/-- An instruction that ends, completed or faulting, keeps the flags its rule does not write. -/
theorem exec_flagsKept {i : Instr} (h : exec i s = .next t) : FlagsKept i s t.flags := by
  rcases exec_completes_or_faults h with hc | hf
  · exact hc.flags
  · rw [hf.flags]
    exact .refl

/-- Settles O39, from what an instruction can do. -/
theorem segmentRegistersFrame : Obligations.SegmentRegistersFrame := by
  unfold Obligations.SegmentRegistersFrame
  intro i s t h
  exact exec_segs h

/-- Settles O40, from what an instruction can do. -/
theorem flagsFrame : Obligations.FlagsFrame := by
  unfold Obligations.FlagsFrame
  intro i s t h
  have hk := exec_flagsKept h
  exact ⟨fun hi => ⟨hk.overflow hi, hk.auxiliary hi⟩, hk.interrupt, hk.carry, hk.zsp⟩

/-- Settles O43: HLT is one state change; every other instruction completes with the engine as it was, or faults. -/
theorem engineFrame : Obligations.EngineFrame := by
  unfold Obligations.EngineFrame
  intro i s t h
  by_cases hi : i = .hlt
  · subst hi
    cases h
    exact ⟨rfl, rfl, .inr (.inl ⟨rfl, rfl, rfl⟩)⟩
  · rcases exec_completes_or_faults h with hc | ⟨u, a, hu, ha, rfl⟩
    · exact ⟨hc.lastInstruction, hc.cfg, .inl ⟨hi, hc.running hi, hc.diag⟩⟩
    · rw [hu.eq]
      exact ⟨rfl, rfl, .inr (.inr ⟨hi, rfl, rfl, a, ha, rfl⟩)⟩

/-! ## The step -/

/-- Where a step ends: in a halted engine where it began, in a fault of the service or of the fetch, or where the
meaning of the fetched instruction ends (R80). -/
theorem step_eq_next : step s = .next t ↔
    (s.running = false ∧ s = t) ∨
      (s.running = true ∧ (serviceInterrupts s = .error t ∨
        ∃ s1, serviceInterrupts s = .ok s1 ∧ (fetch s1 = .error t ∨
          ∃ i s2, fetch s1 = .ok (i, s2) ∧ exec i s2 = .next t))) := by
  unfold step
  cases s.running with
  | false => simp
  | true =>
    cases serviceInterrupts s with
    | error h => simp
    | ok s1 => rcases hf : fetch s1 with h | ⟨i, s2⟩ <;> simp [hf, and_assoc]

/-- A meaning keeps the invariant. -/
theorem exec_inv {i : Instr} (hs : s.Inv) (h : exec i s = .next t) : t.Inv := by
  rcases exec_completes_or_faults h with hc | hf
  · exact hc.inv hs
  · exact hf.inv hs

/-- The interrupt service keeps the invariant, whether it is done or faults (R211). -/
theorem ends_serviceInterrupts_inv (hs : s.Inv) : Ends State.Inv State.Inv (serviceInterrupts s) := by
  have hp := inv_pollKeyboard hs
  have hirr (b : Byte) : (b &&& ~~~irq1) &&& ~~~irq1 = b &&& ~~~irq1 := by rw [BitVec.and_assoc, BitVec.and_self]
  refine ends_iff.mpr ⟨fun t ht => ?_, fun h hh => ?_⟩
  · rcases serviceInterrupts_eq_ok.mp ht with ⟨-, rfl⟩ | ⟨-, u, hu, rfl⟩
    · exact hp
    · have hi := ((ends_iff.mp (ends_enterInterrupt _ _)).1 u hu).inv hp
      exact inv_setPic hi ((hirr _).trans hi.irr) hi.isr
  · obtain ⟨-, he⟩ := serviceInterrupts_eq_error.mp hh
    exact ((ends_iff.mp (ends_enterInterrupt _ _)).2 h he).inv hp

section
variable {ε : Type} {E : ε → Prop} {f8 : Nat → Except ε Byte} {f16 : Nat → Except ε Word}

/-- Fetching the fields stops with an error of one of the fetches only. -/
theorem ends_fetchFields (h8 : ∀ k, Ends (fun _ => True) E (f8 k)) (h16 : ∀ k, Ends (fun _ => True) E (f16 k))
    (op m : Byte) (fmt : Format) : Ends (fun _ => True) E (fmt.fetchFields f8 f16 op m) := by
  cases fmt with
  | op | opM => trivial
  | opI8 | opR8 | opMI8 => exact (h8 _).bind fun _ _ => trivial
  | opI16 | opA16 | opR16 | opMD16 | opMI16 => exact (h16 _).bind fun _ _ => trivial
  | opMD16I8 => exact (h16 _).bind fun _ _ => (h8 _).bind fun _ _ => trivial
  | opMD16I16 => exact (h16 _).bind fun _ _ => (h16 _).bind fun _ _ => trivial

/-- The decoder stops with an error of one of the fetches or with a rejection only. -/
theorem ends_decodeFrom (h8 : ∀ k, Ends (fun _ => True) E (f8 k)) (h16 : ∀ k, Ends (fun _ => True) E (f16 k))
    {reject : DecodeError → ε} (hr : ∀ d, E (reject d)) (c : Config) (op : Byte) :
    Ends (fun _ => True) E (decodeFrom c f8 f16 reject op) := by
  unfold decodeFrom
  split
  · exact hr _
  · split
    · exact (ends_fetchFields h8 h16 ..).bind fun _ _ => trivial
    · refine (h8 1).bind fun m _ => ?_
      split
      · exact hr _
      · exact (ends_fetchFields h8 h16 ..).bind fun _ _ => trivial

end

theorem inv_rejectEncoding (hs : s.Inv) (o : Word) (d : DecodeError) : (rejectEncoding o s d).Inv := by
  cases d <;> exact inv_raise hs ..

theorem inv_afterOpcode (hs : s.Inv) (op : Byte) : (s.afterOpcode op).Inv := inv_of_unwatched hs ..

/-- The fetch keeps the invariant, whether it answers an instruction or faults (R80, R82). -/
theorem ends_fetch_inv (hs : s.Inv) : Ends (fun p => p.2.Inv) State.Inv (fetch s) := by
  refine ((ends_read8 _).imp_error fun _ he => he.inv hs).bind fun op _ => ?_
  have hs1 := inv_afterOpcode hs op
  have h8 (k : Nat) := (ends_read8 (o := s.ip) (s := s.afterOpcode op)
    (fetchAddress (s.afterOpcode op).segs.cs s.ip k)).imp_error fun _ he => he.inv hs1
  have h16 (k : Nat) := (ends_read16 (o := s.ip) (s := s.afterOpcode op)
    (fetchAddress (s.afterOpcode op).segs.cs s.ip k)).imp_error fun _ he => he.inv hs1
  exact (ends_decodeFrom h8 h16 (inv_rejectEncoding hs1 _) _ op).bind fun _ _ => hs1

/-- Settles O57: the service, the fetch and the meaning each keep the invariant. -/
theorem everyStepKeepsTheInvariant : Obligations.EveryStepKeepsTheInvariant := by
  unfold Obligations.EveryStepKeepsTheInvariant
  intro s t hs h
  have hservice := ends_iff.mp (ends_serviceInterrupts_inv hs)
  rcases step_eq_next.mp h with ⟨-, rfl⟩ | ⟨-, he | ⟨s1, he, hf⟩⟩
  · exact hs
  · exact hservice.2 t he
  · have hfetch := ends_iff.mp (ends_fetch_inv (hservice.1 s1 he))
    rcases hf with hf | ⟨i, s2, hf, hx⟩
    · exact hfetch.2 t hf
    · exact exec_inv (hfetch.1 (i, s2) hf) hx

end Sys2Proof.Proofs
end

section
/-! PROOFS. ISR decides nothing (R33, R211): a run beside one that differs in ISR only. -/

namespace Sys2Proof.Proofs

open Sys2Proof.Machine Sys2Proof.Claims

/-- `s` with another ISR. -/
def withIsr (s : State) (x : Byte) : State := { s with pic := { s.pic with isr := x } }

/-- `t` is `s` but for ISR. -/
def ButIsr (s t : State) : Prop := ∃ y, t = withIsr s y

/-- Both computations answer values related by `R`, or both stop in states that are the same but for ISR. -/
inductive Agree {α : Type} (R : α → α → Prop) : Except State α → Except State α → Prop
  | ok {a b : α} (h : R a b) : Agree R (.ok a) (.ok b)
  | error (h : State) (y : Byte) : Agree R (.error h) (.error (withIsr h y))

/-- The same value, and states that are the same but for ISR. -/
def ButIsrWith {α : Type} (p q : α × State) : Prop := ∃ y, q = (p.1, withIsr p.2 y)

section
variable {α β : Type} {R : α → α → Prop} {Q : β → β → Prop}

theorem Agree.of_ok {x y : Except State α} {a : α} (h : Agree R x y) (hx : x = .ok a) : ∃ b, y = .ok b ∧ R a b := by
  cases h with
  | ok hr => cases hx; exact ⟨_, rfl, hr⟩
  | error => cases hx

theorem Agree.of_error {x y : Except State α} {e : State} (h : Agree R x y) (hx : x = .error e) :
    ∃ e', y = .error e' ∧ ButIsr e e' := by
  cases h with
  | ok => cases hx
  | error _ z => cases hx; exact ⟨_, rfl, z, rfl⟩

/-- Sequencing after a read: both runs go on with one value. -/
theorem Agree.read {x y : Except State α} {f g : α → Except State β} (hx : Agree Eq x y)
    (hf : ∀ a, Agree Q (f a) (g a)) : Agree Q (x >>= f) (y >>= g) := by
  cases hx with
  | ok e => cases e; exact hf _
  | error h z => exact .error h z

/-- Sequencing after a write: the runs go on from states that are the same but for ISR. -/
theorem Agree.store {x y : Except State State} {f g : State → Except State β} (hx : Agree ButIsr x y)
    (hf : ∀ u z, Agree Q (f u) (g (withIsr u z))) : Agree Q (x >>= f) (y >>= g) := by
  cases hx with
  | ok e => obtain ⟨z, rfl⟩ := e; exact hf _ z
  | error h z => exact .error h z

/-- Sequencing after an operation that answers a value and a state. -/
theorem Agree.pop {x y : Except State (α × State)} {f g : α × State → Except State β} (hx : Agree ButIsrWith x y)
    (hf : ∀ v u z, Agree Q (f (v, u)) (g (v, withIsr u z))) : Agree Q (x >>= f) (y >>= g) := by
  cases hx with
  | ok e => obtain ⟨z, rfl⟩ := e; exact hf _ _ z
  | error h z => exact .error h z

end

variable {o : Word} {s t : State} {x : Byte}

/-! ## Accesses, the stack and interrupts -/

theorem agree_read8 (a : Nat) : Agree Eq (read8 o a s) (read8 o a (withIsr s x)) := by
  unfold read8
  split
  · exact .ok rfl
  · exact .error _ x

theorem agree_read16 (a : Nat) : Agree Eq (read16 o a s) (read16 o a (withIsr s x)) := by
  unfold read16
  split
  · exact .ok rfl
  · exact .error _ x

theorem agree_write8 (a : Nat) (v : Byte) : Agree ButIsr (write8 o a v s) (write8 o a v (withIsr s x)) := by
  unfold write8
  split
  · exact .ok ⟨x, rfl⟩
  · exact .error _ x

theorem agree_write16 (a : Nat) (v : Word) : Agree ButIsr (write16 o a v s) (write16 o a v (withIsr s x)) := by
  unfold write16
  split
  · exact .ok ⟨x, rfl⟩
  · exact .error _ x

theorem agree_push (v : Word) : Agree ButIsr (push o v s) (push o v (withIsr s x)) :=
  agree_write16 (s := s.setReg .sp (s.regs.sp - 2)) _ v

theorem agree_pop : Agree ButIsrWith (pop o s) (pop o (withIsr s x)) :=
  (agree_read16 _).read fun _ => .ok ⟨x, rfl⟩

theorem agree_enterInterrupt (n : Byte) (ret : Word) :
    Agree ButIsr (enterInterrupt o n ret s) (enterInterrupt o n ret (withIsr s x)) :=
  (agree_push _).store fun _ _ => (agree_push _).store fun _ _ =>
    (agree_push _).store fun _ y => (agree_read16 _).read fun _ =>
      (agree_read16 _).read fun _ => .ok ⟨y ||| irq1, rfl⟩

theorem agree_interruptReturn : Agree ButIsr (interruptReturn o s) (interruptReturn o (withIsr s x)) :=
  agree_pop.pop fun _ _ _ => agree_pop.pop fun _ _ _ =>
    agree_pop.pop fun _ _ _ => .ok ⟨0x00, rfl⟩

/-! ## Ports -/

theorem portRead_withIsr (p : Byte) :
    portRead p (withIsr s x) = ((portRead p s).1, withIsr (portRead p s).2 x) := by
  unfold portRead
  repeat' split
  all_goals rfl

/-- An EOI, which clears ISR, is the one port write that makes the two ISR values one (R227). -/
theorem portWrite_withIsr (p v : Byte) : ButIsr (portWrite p v s) (portWrite p v (withIsr s x)) := by
  unfold portWrite
  split
  · exact ⟨x, rfl⟩
  · split
    · split
      · exact ⟨0x00, rfl⟩
      · exact ⟨x, rfl⟩
    · exact ⟨x, rfl⟩

/-! ## The meanings -/

theorem finish_butIsr {r r' : Except State State} (h : finish r = .next t) (hr : Agree ButIsr r r') :
    ∃ u, finish r' = .next u ∧ ButIsr t u := by
  cases hr with
  | ok hb => cases h; exact ⟨_, rfl, hb⟩
  | error e y => cases h; exact ⟨_, rfl, y, rfl⟩

/-- A meaning ends in the same state but for ISR, whatever ISR is. -/
theorem exec_butIsr {i : Instr} (h : exec i s = .next t) : ∃ u, exec i (withIsr s x) = .next u ∧ ButIsr t u := by
  cases i with
  -- no access
  | movR8Imm8 r _ => cases h; exact ⟨_, rfl, x, by cases r <;> rfl⟩
  | movR16Imm16 _ _ | movDsAx | movEsAx | movSsAx | addAxBx | addAxImm16 _ | subAxBx | subAxImm16 _ | cmpAxBx
  | cmpAlImm8 _ | cmpAxImm8 _ _ | jc _ | jnc _ | je _ | jne _ | ja _ | jmpRel16 _ | jmpRel8 _ | xorAxAx | xorBxBx
  | mulAl | cli | sti | hlt => cases h; exact ⟨_, rfl, x, rfl⟩
  -- a byte or a word is read
  | movAlA16 _ | lodsb | mulByteBx =>
    exact finish_butIsr h ((agree_read8 _).read fun _ => .ok ⟨x, rfl⟩)
  | movAxD16 _ | movAxA16 _ | addAxD16 _ | addAxSi | subAxD16 _ | cmpAxD16 _ =>
    exact finish_butIsr h ((agree_read16 _).read fun _ => .ok ⟨x, rfl⟩)
  -- a byte or a word is written
  | movByteD16Imm8 _ _ | stosb =>
    exact finish_butIsr h ((agree_write8 _ _).store fun _ y => .ok ⟨y, rfl⟩)
  | movD16Ax _ | movWordD16Imm16 _ _ | movWordSiImm16 _ =>
    exact finish_butIsr h ((agree_write16 _ _).store fun _ y => .ok ⟨y, rfl⟩)
  -- read, then written
  | addD16Ax _ =>
    exact finish_butIsr h ((agree_read16 _).read fun _ => (agree_write16 _ _).store fun _ y => .ok ⟨y, rfl⟩)
  | incByteD16 _ | decByteD16 _ =>
    exact finish_butIsr h ((agree_read8 _).read fun _ => (agree_write8 _ _).store fun _ y => .ok ⟨y, rfl⟩)
  -- the stack
  | pushAx | pushCs | callRel16 _ =>
    exact finish_butIsr h ((agree_push _).store fun _ y => .ok ⟨y, rfl⟩)
  | popAx | popDs | popEs | ret =>
    exact finish_butIsr h (agree_pop.pop fun _ _ y => .ok ⟨y, rfl⟩)
  -- ports
  | inAlImm8 _ | inAxImm8 _ =>
    simp only [exec, execInAlImm8, execInAxImm8, portRead_withIsr] at h ⊢
    cases h
    exact ⟨_, rfl, x, rfl⟩
  | outImm8Al _ | outImm8Ax _ =>
    cases h
    obtain ⟨y, e⟩ := portWrite_withIsr ..
    exact ⟨_, rfl, y, congrArg (State.advance · 2) e⟩
  -- interrupts
  | intImm8 n =>
    by_cases hi : s.flags.interrupt = true
    · have hi' : (withIsr s x).flags.interrupt = true := hi
      simp only [exec, execIntImm8, if_pos hi, if_pos hi'] at h ⊢
      exact finish_butIsr h (agree_enterInterrupt ..)
    · have hi' : ¬ (withIsr s x).flags.interrupt = true := hi
      simp only [exec, execIntImm8, if_neg hi, if_neg hi'] at h ⊢
      cases h
      exact ⟨_, rfl, x, rfl⟩
  | iret => exact finish_butIsr h agree_interruptReturn

/-! ## The service, the fetch and the step -/

theorem pollKeyboard_withIsr : pollKeyboard (withIsr s x) = withIsr (pollKeyboard s) x := by
  unfold pollKeyboard
  by_cases hk : (s.kbd.head != s.kbd.tail) = true
  · rw [if_pos hk]
    exact if_pos hk
  · rw [if_neg hk]
    exact if_neg hk

/-- Whether IRQ1 is taken does not depend on ISR (R211, D24). -/
theorem irq1Taken_withIsr : irq1Taken (withIsr s x) = irq1Taken s := rfl

theorem agree_serviceInterrupts : Agree ButIsr (serviceInterrupts s) (serviceInterrupts (withIsr s x)) := by
  unfold serviceInterrupts
  simp only [pollKeyboard_withIsr, irq1Taken_withIsr]
  split
  · exact (agree_enterInterrupt ..).store fun _ y => .ok ⟨y, rfl⟩
  · exact .ok ⟨x, rfl⟩

section
variable {f8 g8 : Nat → Except State Byte} {f16 g16 : Nat → Except State Word}

theorem agree_fetchFields (h8 : ∀ k, Agree Eq (f8 k) (g8 k)) (h16 : ∀ k, Agree Eq (f16 k) (g16 k)) (op m : Byte)
    (fmt : Format) : Agree Eq (fmt.fetchFields f8 f16 op m) (fmt.fetchFields g8 g16 op m) := by
  cases fmt with
  | op | opM => exact .ok rfl
  | opI8 | opR8 | opMI8 => exact (h8 _).read fun _ => .ok rfl
  | opI16 | opA16 | opR16 | opMD16 | opMI16 => exact (h16 _).read fun _ => .ok rfl
  | opMD16I8 => exact (h16 _).read fun _ => (h8 _).read fun _ => .ok rfl
  | opMD16I16 => exact (h16 _).read fun _ => (h16 _).read fun _ => .ok rfl

/-- Two decodings whose fetches agree, and whose rejections are the same but for ISR, agree. -/
theorem agree_decodeFrom (h8 : ∀ k, Agree Eq (f8 k) (g8 k)) (h16 : ∀ k, Agree Eq (f16 k) (g16 k))
    {reject reject' : DecodeError → State} (hr : ∀ d, ButIsr (reject d) (reject' d)) (c : Config) (op : Byte) :
    Agree Eq (decodeFrom c f8 f16 reject op) (decodeFrom c g8 g16 reject' op) := by
  have rejected (d : DecodeError) : Agree (Eq (α := Instr)) (.error (reject d)) (.error (reject' d)) := by
    obtain ⟨y, e⟩ := hr d
    rw [e]
    exact .error _ y
  unfold decodeFrom
  cases rowsFor c op with
  | nil => exact rejected _
  | cons row rest =>
    dsimp only
    cases row.modrm with
    | none => exact (agree_fetchFields h8 h16 ..).read fun _ => .ok rfl
    | some rule =>
      refine (h8 1).read fun m => ?_
      cases (row :: rest).find? (·.acceptsModrm c m) with
      | none => exact rejected _
      | some r => exact (agree_fetchFields h8 h16 ..).read fun _ => .ok rfl

end

theorem rejectEncoding_butIsr (d : DecodeError) : ButIsr (rejectEncoding o s d) (rejectEncoding o (withIsr s x) d) := by
  cases d <;> exact ⟨x, rfl⟩

theorem agree_fetch : Agree ButIsrWith (fetch s) (fetch (withIsr s x)) :=
  (agree_read8 _).read fun op =>
    (agree_decodeFrom (fun _ => agree_read8 (s := s.afterOpcode op) _) (fun _ => agree_read16 (s := s.afterOpcode op) _)
      rejectEncoding_butIsr ..).read fun _ => .ok ⟨x, rfl⟩

/-- Settles O56: the service, the fetch and the meaning each end in the same state but for ISR. -/
theorem isrDecidesNothing : Obligations.IsrDecidesNothing := by
  unfold Obligations.IsrDecidesNothing
  intro s x t h
  suffices hb : ∃ u, step (withIsr s x) = .next u ∧ ButIsr t u by
    obtain ⟨u, hu, y, rfl⟩ := hb
    exact ⟨y, hu⟩
  rcases step_eq_next.mp h with ⟨hr, rfl⟩ | ⟨hr, he | ⟨s1, he, hf⟩⟩
  · exact ⟨_, step_eq_next.mpr (.inl ⟨hr, rfl⟩), x, rfl⟩
  · obtain ⟨u, hu, hb⟩ := (agree_serviceInterrupts (x := x)).of_error he
    exact ⟨u, step_eq_next.mpr (.inr ⟨hr, .inl hu⟩), hb⟩
  · obtain ⟨_, hu, z, rfl⟩ := (agree_serviceInterrupts (x := x)).of_ok he
    rcases hf with hf | ⟨i, s2, hf, hx⟩
    · obtain ⟨u, hv, hb⟩ := (agree_fetch (x := z)).of_error hf
      exact ⟨u, step_eq_next.mpr (.inr ⟨hr, .inr ⟨_, hu, .inl hv⟩⟩), hb⟩
    · obtain ⟨_, hv, z', rfl⟩ := (agree_fetch (x := z)).of_ok hf
      obtain ⟨u, hw, hb⟩ := exec_butIsr (x := z') hx
      exact ⟨u, step_eq_next.mpr (.inr ⟨hr, .inr ⟨_, hu, .inr ⟨_, _, hv, hw⟩⟩⟩), hb⟩

end Sys2Proof.Proofs
end

section
/-! PROOFS. Reads and writes, where the access fits and where it does not (20_memory.md R53 to R56). -/

namespace Sys2Proof.Proofs

open Sys2Proof.Machine Sys2Proof.Claims

variable {o : Word} {s : State} {a : Nat}

/-! ## Accesses -/

/-- The little-endian value of a word (R56). -/
theorem toNat_joinBytes (lo hi : Byte) : (joinBytes lo hi).toNat = lo.toNat + 256 * hi.toNat := by
  have hlo := lo.isLt
  rw [joinBytes, BitVec.toNat_append, Nat.shiftLeft_eq, Nat.mul_comm, ← Nat.two_pow_add_eq_or_of_lt hlo]
  omega

theorem read8_of_fits (h : Fits a 1) : read8 o a s = .ok (s.byteAt a) := read8_eq_ok.mpr ⟨h, rfl⟩

theorem read16_of_fits (h : Fits a 2) : read16 o a s = .ok (s.wordAt a) := read16_eq_ok.mpr ⟨h, rfl⟩

theorem write8_of_fits (v : Byte) (h : Fits a 1) : write8 o a v s = .ok (s.setByte a v) := write8_eq_ok.mpr ⟨h, rfl⟩

theorem write16_of_fits (v : Word) (h : Fits a 2) : write16 o a v s = .ok (s.setWord a v) :=
  write16_eq_ok.mpr ⟨h, rfl⟩

theorem read8_of_not_fits (h : ¬ Fits a 1) : read8 o a s = .error (haltedByMemory s a o) :=
  read8_eq_error.mpr ⟨Nat.lt_of_not_le h, rfl⟩

theorem read16_of_not_fits (h : ¬ Fits a 2) : read16 o a s = .error (haltedByMemory s a o) :=
  read16_eq_error.mpr ⟨Nat.lt_of_not_le h, rfl⟩

theorem write8_of_not_fits (v : Byte) (h : ¬ Fits a 1) : write8 o a v s = .error (haltedByMemory s a o) :=
  write8_eq_error.mpr ⟨Nat.lt_of_not_le h, rfl⟩

theorem write16_of_not_fits (v : Word) (h : ¬ Fits a 2) : write16 o a v s = .error (haltedByMemory s a o) :=
  write16_eq_error.mpr ⟨Nat.lt_of_not_le h, rfl⟩

theorem faultsAt_haltedByMemory (s : State) (a : Nat) (o : Word) : FaultsAt s (haltedByMemory s a o) a :=
  ⟨_, rfl, rfl, rfl⟩

theorem storesByte_setByte (s : State) (a : Nat) (v : Byte) : StoresByte s (s.setByte a v) a v :=
  ⟨s.byteAt_setByte_same a v, fun b hb => by rw [State.byteAt_setByte, if_neg hb]⟩

theorem storesWord_setWord (s : State) (a : Nat) (v : Word) : StoresWord s (s.setWord a v) a v :=
  ⟨by simp [State.byteAt_setWord], by simp [State.byteAt_setWord], fun _ => s.byteAt_setWord_other v⟩

/-- Settles O1, by whether the access fits. -/
theorem memReadChecksBoundsThenReadsLittleEndian : Obligations.MemReadChecksBoundsThenReadsLittleEndian := by
  unfold Obligations.MemReadChecksBoundsThenReadsLittleEndian
  intro o a s
  exact ⟨read8_of_fits, fun h => ⟨_, read16_of_fits h, toNat_joinBytes ..⟩,
    fun h => ⟨_, read8_of_not_fits h, faultsAt_haltedByMemory ..⟩,
    fun h => ⟨_, read16_of_not_fits h, faultsAt_haltedByMemory ..⟩⟩

/-- Settles O2, by whether the access fits; what a later read returns is the store's read-back. -/
theorem memWriteStoresExactlyItsBytes : Obligations.MemWriteStoresExactlyItsBytes := by
  unfold Obligations.MemWriteStoresExactlyItsBytes
  intro o a s
  refine ⟨fun v h => ⟨_, write8_of_fits v h, storesByte_setByte .., rfl, ?_⟩,
    fun v h => ⟨_, write16_of_fits v h, storesWord_setWord .., rfl, ?_⟩,
    fun v h => ⟨_, write8_of_not_fits v h, faultsAt_haltedByMemory ..⟩,
    fun v h => ⟨_, write16_of_not_fits v h, faultsAt_haltedByMemory ..⟩⟩
  · rw [read8_of_fits h, State.byteAt_setByte_same]
  · rw [read16_of_fits h, State.wordAt_setWord_same]

end Sys2Proof.Proofs
end

section
/-! PROOFS. Pushes and pops, where the word fits and where it does not (20_memory.md R57, R58). -/

namespace Sys2Proof.Proofs

open Sys2Proof.Machine Sys2Proof.Claims

variable {o : Word} {s : State}

/-! ## SP as pushes and pops leave it -/

/-- SP `k` bytes lower, as pushes of `k` bytes leave it. -/
def lowered (s : State) (k : Word) : State := s.setReg .sp (s.regs.sp - k)

/-- SP `k` bytes higher, as pops of `k` bytes leave it. -/
def raised (s : State) (k : Word) : State := s.setReg .sp (s.regs.sp + k)

theorem below_lowered (s : State) (j k : Word) : below (lowered s j) k = below s (j + k) :=
  congrArg (Machine.translate s.segs.ss) (BitVec.sub_sub ..)

theorem raised_zero (s : State) : raised s 0 = s := congrArg (s.setReg .sp) (BitVec.add_zero s.regs.sp)

theorem raised_raised (s : State) (j k : Word) : raised (raised s j) k = raised s (j + k) :=
  congrArg (s.setReg .sp) (BitVec.add_assoc ..)

theorem raised_lowered (s : State) (k : Word) : raised (lowered s k) k = s :=
  congrArg (s.setReg .sp) (BitVec.sub_add_cancel ..)

/-! ## Push and pop -/

theorem push_of_fits (v : Word) (h : Fits (below s 2) 2) : push o v s = .ok ((lowered s 2).setWord (below s 2) v) :=
  push_eq_ok.mpr ⟨h, rfl⟩

theorem push_of_not_fits (v : Word) (h : ¬ Fits (below s 2) 2) :
    push o v s = .error (haltedByMemory (lowered s 2) (below s 2) o) :=
  push_eq_error.mpr ⟨Nat.lt_of_not_le h, rfl⟩

/-- The pop that follows pops of `k` bytes. -/
theorem pop_raised_of_fits {k : Word} (h : Fits (above s k) 2) :
    pop o (raised s k) = .ok (s.wordAt (above s k), raised s (k + 2)) :=
  pop_eq_ok.mpr ⟨h, congrArg (s.wordAt (above s k), ·) (raised_raised s k 2)⟩

theorem pop_raised_of_not_fits {k : Word} (h : ¬ Fits (above s k) 2) :
    pop o (raised s k) = .error (haltedByMemory (raised s k) (above s k) o) :=
  pop_eq_error.mpr ⟨Nat.lt_of_not_le h, rfl⟩

theorem pop_of_fits (h : Fits (above s 0) 2) : pop o s = .ok (s.wordAt (above s 0), raised s 2) := by
  have hp := pop_raised_of_fits (o := o) h
  rw [raised_zero] at hp
  exact hp

theorem pop_of_not_fits (h : ¬ Fits (above s 0) 2) : pop o s = .error (haltedByMemory s (above s 0) o) := by
  have hp := pop_raised_of_not_fits (o := o) h
  rwa [raised_zero] at hp

/-- Settles O3, by whether the word below the stack fits. -/
theorem pushDecrementsSpThenWrites : Obligations.PushDecrementsSpThenWrites := by
  unfold Obligations.PushDecrementsSpThenWrites
  intro o v s
  exact ⟨fun h => ⟨_, push_of_fits v h, storesWord_setWord (lowered s 2) .., rfl⟩, push_of_not_fits v⟩

/-- Settles O4: the top of the stack a push leaves is the word it stored. -/
theorem popReadsThenIncrementsSpAndUndoesPush : Obligations.PopReadsThenIncrementsSpAndUndoesPush := by
  unfold Obligations.PopReadsThenIncrementsSpAndUndoesPush
  intro o s
  refine ⟨pop_of_fits, pop_of_not_fits, fun v h => ?_⟩
  have hw := (lowered s 2).wordAt_setWord_same (below s 2) v
  have hregs := congrArg State.regs (raised_lowered s 2)
  exact ⟨_, _, push_of_fits v h, pop_eq_ok.mpr ⟨h, congrArg (·, _) hw⟩, hregs⟩

/-! ## Stack faults in a meaning (R202) -/

/-- A meaning whose first part faults ends in that fault. -/
theorem finish_of_error {α : Type} {x : Except State α} {f : α → Except State State} {h : State} (hx : x = .error h) :
    finish (x >>= f) = .next h := by
  rw [hx, error_bind, finish_error]

theorem iret_of_error {h : State} (hr : interruptReturn s.opip s = .error h) : exec .iret s = .next h :=
  congrArg finish hr

/-- Settles O36: a push or a first pop ends the meaning it begins; IRET's later pops start from SP as raised. -/
theorem stackFaultHaltsWithSpAsTheRulesSay : Obligations.StackFaultHaltsWithSpAsTheRulesSay := by
  unfold Obligations.StackFaultHaltsWithSpAsTheRulesSay
  simp only [List.forall_mem_cons]
  refine ⟨fun rel s h => ?_, fun s h => ?_, fun s h0 h2 => ?_, fun s h0 h2 h4 => ?_⟩
  · exact ⟨finish_of_error (push_of_not_fits _ h), finish_of_error (push_of_not_fits _ h),
      finish_of_error (push_of_not_fits _ h), nofun⟩
  · have hp := pop_of_not_fits (o := s.opip) h
    exact ⟨finish_of_error hp, finish_of_error hp, finish_of_error hp, finish_of_error hp, finish_of_error hp, nofun⟩
  · exact iret_of_error (interruptReturn_eq_error.mpr
      (.inr ⟨_, _, pop_of_fits h0, .inl (pop_raised_of_not_fits h2)⟩))
  · exact iret_of_error (interruptReturn_eq_error.mpr
      (.inr ⟨_, _, pop_of_fits h0, .inr ⟨_, _, pop_raised_of_fits h2, pop_raised_of_not_fits h4⟩⟩))

end Sys2Proof.Proofs
end

section
/-! PROOFS. The bytes each instruction leaves unchanged (20_memory.md R54, R57). -/

namespace Sys2Proof.Proofs

open Sys2Proof.Machine Sys2Proof.Claims

variable {i : Instr} {s t u : State} {o : Word} {a : Nat} {bs : List Nat}

/-- From `s` to `t` every byte of memory outside `bs` reads as before. -/
def BytesKept (bs : List Nat) (s t : State) : Prop := ∀ a, a ∉ bs → t.byteAt a = s.byteAt a

/-- `r` ends, completed or faulting, with every byte outside `bs` as in `s`. -/
abbrev EndsKept (bs : List Nat) (s : State) : Except State State → Prop := Ends (BytesKept bs s) (BytesKept bs s)

theorem BytesKept.refl : BytesKept bs s s := fun _ _ => rfl

theorem BytesKept.setByte (h : BytesKept bs s u) (ha : a ∈ bs) (v : Byte) : BytesKept bs s (u.setByte a v) := by
  intro b hb
  have hne : b ≠ a := fun e => hb (e ▸ ha)
  rw [State.byteAt_setByte, if_neg hne, h b hb]

theorem BytesKept.setWord (h : BytesKept bs s u) (ha : wordAddrs a ⊆ bs) (v : Word) : BytesKept bs s (u.setWord a v) :=
  (h.setByte (ha (.head _)) _).setByte (ha (.tail _ (.head _))) _

/-! ## Accesses and the stack, from a state `u` that a meaning has reached -/

theorem keeps_read8 (h : BytesKept bs s u) (a : Nat) : Ends (fun _ => True) (BytesKept bs s) (read8 o a u) := by
  refine ends_iff.mpr ⟨fun _ _ => trivial, fun e he => ?_⟩
  obtain ⟨-, rfl⟩ := read8_eq_error.mp he
  exact h

theorem keeps_read16 (h : BytesKept bs s u) (a : Nat) : Ends (fun _ => True) (BytesKept bs s) (read16 o a u) := by
  refine ends_iff.mpr ⟨fun _ _ => trivial, fun e he => ?_⟩
  obtain ⟨-, rfl⟩ := read16_eq_error.mp he
  exact h

theorem keeps_write8 (h : BytesKept bs s u) (ha : a ∈ bs) (v : Byte) : EndsKept bs s (write8 o a v u) := by
  refine ends_iff.mpr ⟨fun t ht => ?_, fun e he => ?_⟩
  · obtain ⟨-, rfl⟩ := write8_eq_ok.mp ht
    exact h.setByte ha v
  · obtain ⟨-, rfl⟩ := write8_eq_error.mp he
    exact h

theorem keeps_write16 (h : BytesKept bs s u) (ha : wordAddrs a ⊆ bs) (v : Word) :
    EndsKept bs s (write16 o a v u) := by
  refine ends_iff.mpr ⟨fun t ht => ?_, fun e he => ?_⟩
  · obtain ⟨-, rfl⟩ := write16_eq_ok.mp ht
    exact h.setWord ha v
  · obtain ⟨-, rfl⟩ := write16_eq_error.mp he
    exact h

/-- A push keeps the bytes outside its word, and leaves the stack two bytes lower for the pushes after it. -/
theorem keeps_push (h : BytesKept bs s u) (ha : wordAddrs (below u 2) ⊆ bs) (v : Word) :
    Ends (fun t => BytesKept bs s t ∧ ∀ k, below t k = below u (2 + k)) (BytesKept bs s) (push o v u) := by
  have hl : BytesKept bs s (lowered u 2) := h
  refine ends_iff.mpr ⟨fun t ht => ?_, fun e he => ?_⟩
  · obtain ⟨-, rfl⟩ := push_eq_ok.mp ht
    exact ⟨hl.setWord ha v, below_lowered u 2⟩
  · obtain ⟨-, rfl⟩ := push_eq_error.mp he
    exact h

theorem keeps_pop (h : BytesKept bs s u) : Ends (fun p => BytesKept bs s p.2) (BytesKept bs s) (pop o u) :=
  (keeps_read16 h _).bind fun _ _ => h

theorem keeps_enterInterrupt (n : Byte) (ret : Word) (h2 : wordAddrs (below s 2) ⊆ bs)
    (h4 : wordAddrs (below s 4) ⊆ bs) (h6 : wordAddrs (below s 6) ⊆ bs) :
    EndsKept bs s (enterInterrupt o n ret s) :=
  (keeps_push .refl h2 _).bind fun s1 ⟨k1, b1⟩ =>
    have e4 : below s1 2 = below s 4 := b1 2
    (keeps_push k1 (e4 ▸ h4) _).bind fun s2 ⟨k2, b2⟩ =>
      have e6 : below s2 2 = below s 6 := (b2 2).trans (b1 4)
      (keeps_push k2 (e6 ▸ h6) _).bind fun _ ⟨k3, _⟩ =>
        (keeps_read16 k3 _).bind fun _ _ => (keeps_read16 k3 _).bind fun _ _ => k3

theorem keeps_interruptReturn : EndsKept bs s (interruptReturn o s) :=
  (keeps_pop .refl).bind fun _ h1 => (keeps_pop h1).bind fun _ h2 => (keeps_pop h2).bind fun _ h3 => h3

/-! ## The meanings -/

theorem finish_keeps {r : Except State State} (h : finish r = .next t) (hr : EndsKept bs s r) : BytesKept bs s t := by
  rcases finish_eq_next.mp h with rfl | rfl
  · exact hr
  · exact hr

theorem portRead_byteAt (p : Byte) (s : State) (a : Nat) : (portRead p s).2.byteAt a = s.byteAt a := by
  rw [portRead_state, State.byteAt_setKbd]

theorem portWrite_byteAt (p v : Byte) (s : State) (a : Nat) : (portWrite p v s).byteAt a = s.byteAt a := by
  obtain ⟨isr, imr, e⟩ := portWrite_state p v s
  rw [e, State.byteAt_setPic]

/-- An instruction that ends, completed or faulting, keeps the bytes its rule does not write. -/
theorem exec_bytesKept (h : exec i s = .next t) : BytesKept (writes s i).bytes s t := by
  cases i with
  -- no access
  | movR8Imm8 r _ => cases h; exact fun _ _ => by cases r <;> rfl
  | movR16Imm16 _ _ | movDsAx | movEsAx | movSsAx | addAxBx | addAxImm16 _ | subAxBx | subAxImm16 _ | cmpAxBx
  | cmpAlImm8 _ | cmpAxImm8 _ _ | jc _ | jnc _ | je _ | jne _ | ja _ | jmpRel16 _ | jmpRel8 _ | xorAxAx | xorBxBx
  | mulAl | cli | sti | hlt => cases h; exact .refl
  -- a byte or a word is read
  | movAlA16 _ | lodsb | mulByteBx => exact finish_keeps h ((keeps_read8 .refl _).bind fun _ _ => .refl)
  | movAxD16 _ | movAxA16 _ | addAxD16 _ | addAxSi | subAxD16 _ | cmpAxD16 _ =>
    exact finish_keeps h ((keeps_read16 .refl _).bind fun _ _ => .refl)
  -- a byte or a word is written
  | movByteD16Imm8 _ _ | stosb => exact finish_keeps h ((keeps_write8 .refl (.head _) _).bind fun _ hu => hu)
  | movD16Ax _ | movWordD16Imm16 _ _ | movWordSiImm16 _ =>
    exact finish_keeps h ((keeps_write16 .refl (List.Subset.refl _) _).bind fun _ hu => hu)
  -- read, then written
  | addD16Ax _ =>
    exact finish_keeps h ((keeps_read16 .refl _).bind fun _ _ =>
      (keeps_write16 .refl (List.Subset.refl _) _).bind fun _ hu => hu)
  | incByteD16 _ | decByteD16 _ =>
    exact finish_keeps h ((keeps_read8 .refl _).bind fun _ _ =>
      (keeps_write8 .refl (.head _) _).bind fun _ hu => hu)
  -- the stack
  | pushAx | pushCs | callRel16 _ =>
    exact finish_keeps h ((keeps_push .refl (List.Subset.refl _) _).bind fun _ hu => hu.1)
  | popAx | popDs | popEs | ret => exact finish_keeps h ((keeps_pop .refl).bind fun _ hu => hu)
  -- ports
  | inAlImm8 _ | inAxImm8 _ => cases h; exact fun _ _ => portRead_byteAt ..
  | outImm8Al _ | outImm8Ax _ => cases h; exact fun _ _ => portWrite_byteAt ..
  -- interrupts
  | intImm8 n =>
    by_cases hi : s.flags.interrupt = true
    · simp only [exec, execIntImm8, if_pos hi] at h
      refine finish_keeps h (keeps_enterInterrupt n _ ?_ ?_ ?_) <;> simp [writes, hi]
    · simp only [exec, execIntImm8, if_neg hi] at h
      cases h
      exact .refl
  | iret => exact finish_keeps h keeps_interruptReturn

/-- Settles O41, from what each shared operation leaves of memory. -/
theorem memoryFrame : Obligations.MemoryFrame := by
  unfold Obligations.MemoryFrame
  intro i s t h
  exact exec_bytesKept h

end Sys2Proof.Proofs
end

section
/-! PROOFS. The decoder reads back what the encoder writes, over any way of fetching the fields (30_encoding.md R81 to
R85). -/

namespace Sys2Proof.Proofs

open Sys2Proof.Machine

/-- The row that an opcode byte and its ModRM byte select; the ModRM byte plays no part where the form has none. -/
def selectedRow (c : Config) (op m : Byte) : Option Row :=
  match rowsFor c op with
  | [] => none
  | row :: rest => if row.modrm.isSome then (row :: rest).find? (·.acceptsModrm c m) else some row

section
variable {ε α β : Type} {c : Config} {f8 : Nat → Except ε Byte} {f16 : Nat → Except ε Word}
  {reject : DecodeError → ε} {op m : Byte} {r : Row} {f : Fields} {i : Instr}

/-! ## The row a decoding takes -/

/-- `m` is the ModRM byte that `f8` fetches for a form that has one, and 0 for the others. -/
def ModrmIs (f8 : Nat → Except ε Byte) (m : Byte) : (hasModrm : Bool) → Prop
  | false => m = 0
  | true => f8 1 = .ok m

theorem bind_of_ok {x : Except ε α} {g : α → Except ε β} {a : α} (h : x = .ok a) : (x >>= g) = g a := by
  rw [h]; rfl

theorem bind_of_error {x : Except ε α} {g : α → Except ε β} {e : ε} (h : x = .error e) : (x >>= g) = .error e := by
  rw [h]; rfl

theorem except_bind_eq_ok {x : Except ε α} {g : α → Except ε β} {b : β} :
    (x >>= g) = .ok b ↔ ∃ a, x = .ok a ∧ g a = .ok b := by
  cases x with
  | ok a => rw [bind_of_ok rfl]; simp
  | error e => rw [bind_of_error rfl]; simp

/-- A row that accepts a ModRM byte has a rule for it. -/
theorem isSome_modrm_of_acceptsModrm (h : r.acceptsModrm c m = true) : r.modrm.isSome = true := by
  cases hr : r.modrm with
  | none => simp [Row.acceptsModrm, hr] at h
  | some rule => rfl

/-- The decoder fetches the fields of the row it selects, and builds that row's instruction (R81 to R83). -/
theorem decodeFrom_of_selected (hs : selectedRow c op m = some r) (hm : ModrmIs f8 m r.modrm.isSome) :
    decodeFrom c f8 f16 reject op = (r.format.fetchFields f8 f16 op m >>= fun f => .ok (r.build f)) := by
  unfold selectedRow at hs
  unfold decodeFrom
  cases hrows : rowsFor c op with
  | nil => simp [hrows] at hs
  | cons row rest =>
    simp only [hrows] at hs
    dsimp only
    cases hrow : row.modrm with
    | none =>
      obtain rfl : row = r := by simpa [hrow] using hs
      obtain rfl : m = 0 := by simpa [hrow, ModrmIs] using hm
      rfl
    | some rule =>
      have hfind : (row :: rest).find? (·.acceptsModrm c m) = some r := by simpa [hrow] using hs
      have haccepts := List.find?_some hfind
      rw [isSome_modrm_of_acceptsModrm haccepts] at hm
      refine (bind_of_ok hm).trans ?_
      rw [hfind]

/-- A decoding that answers an instruction has selected a row. -/
theorem exists_selected_of_decodeFrom_eq_ok (h : decodeFrom c f8 f16 reject op = .ok i) :
    ∃ m r, selectedRow c op m = some r ∧ ModrmIs f8 m r.modrm.isSome := by
  unfold decodeFrom at h
  unfold selectedRow
  cases hrows : rowsFor c op with
  | nil => simp [hrows] at h
  | cons row rest =>
    simp only [hrows] at h
    dsimp only
    cases hrow : row.modrm with
    | none => exact ⟨0, row, rfl, by rw [hrow]; rfl⟩
    | some rule =>
      simp only [hrow] at h
      obtain ⟨m, h1, h⟩ := except_bind_eq_ok.mp h
      cases hfind : (row :: rest).find? (·.acceptsModrm c m) with
      | none => simp [hfind] at h
      | some r =>
        have haccepts := List.find?_some hfind
        exact ⟨m, r, hfind, by rw [isSome_modrm_of_acceptsModrm haccepts]; exact h1⟩

/-- The decoder answers only what the row it selects builds from its fields. -/
theorem exists_build_of_decodeFrom_eq_ok (h : decodeFrom c f8 f16 reject op = .ok i) :
    ∃ m r f, selectedRow c op m = some r ∧ ModrmIs f8 m r.modrm.isSome ∧ r.format.fetchFields f8 f16 op m = .ok f ∧
      r.build f = i := by
  obtain ⟨m, r, hs, hm⟩ := exists_selected_of_decodeFrom_eq_ok h
  rw [decodeFrom_of_selected hs hm] at h
  obtain ⟨f, hf, hi⟩ := except_bind_eq_ok.mp h
  exact ⟨m, r, f, hs, hm, hf, Except.ok.inj hi⟩

/-- The decoder answers what the row it selects builds from its fields; the ModRM byte is known before the row. -/
theorem decodeFrom_of_build {b : Bool} (hm : ModrmIs f8 m b) (h : ∃ r f, selectedRow c op m = some r ∧
    r.modrm.isSome = b ∧ r.format.fetchFields f8 f16 op m = .ok f ∧ r.build f = i) :
    decodeFrom c f8 f16 reject op = .ok i := by
  obtain ⟨r, f, hs, rfl, hf, rfl⟩ := h
  rw [decodeFrom_of_selected hs hm, bind_of_ok hf]

theorem selectedRow_cmp83 (hm : modrmMatches c.cmp83Match m = true) :
    selectedRow c 0x83 m = some ⟨0xFF, 0x83, some .cmp83, .opMI8, fun f => .cmpAxImm8 f.m f.b⟩ := by
  unfold selectedRow
  rw [rowsFor_cmp83]
  simp [Row.acceptsModrm, hm]

/-- Where the fetches answer the bytes of a well-formed instruction, the decoder answers that instruction. -/
theorem decodeFrom_encode (hw : i.wellFormed c = true) (h0 : (encode i)[0]? = some op)
    (h8 : ∀ k b, (encode i)[k]? = some b → f8 k = .ok b)
    (h16 : ∀ k w, (encode i)[k]? = some (lowByte w) → (encode i)[k + 1]? = some (highByte w) → f16 k = .ok w) :
    decodeFrom c f8 f16 reject op = .ok i := by
  cases i with
  | ret | pushAx | popAx | pushCs | popDs | popEs | lodsb | stosb | iret | cli | sti | hlt =>
    cases h0
    exact decodeFrom_of_build (b := false) rfl ⟨_, _, rfl, rfl, rfl, rfl⟩
  | movR8Imm8 r b => cases r <;> cases h0 <;>
      exact decodeFrom_of_build (b := false) rfl ⟨_, _, rfl, rfl, bind_of_ok (h8 1 b rfl), rfl⟩
  | movR16Imm16 r w => cases r <;> cases h0 <;>
      exact decodeFrom_of_build (b := false) rfl ⟨_, _, rfl, rfl, bind_of_ok (h16 1 w rfl rfl), rfl⟩
  | cmpAlImm8 b | jc b | jnc b | je b | jne b | ja b | jmpRel8 b | inAlImm8 b | inAxImm8 b | outImm8Al b
  | outImm8Ax b | intImm8 b =>
    cases h0
    exact decodeFrom_of_build (b := false) rfl ⟨_, _, rfl, rfl, bind_of_ok (h8 1 b rfl), rfl⟩
  | movAlA16 w | movAxA16 w | addAxImm16 w | subAxImm16 w | jmpRel16 w | callRel16 w =>
    cases h0
    exact decodeFrom_of_build (b := false) rfl ⟨_, _, rfl, rfl, bind_of_ok (h16 1 w rfl rfl), rfl⟩
  | movDsAx | movEsAx | movSsAx | addAxBx | addAxSi | subAxBx | cmpAxBx | xorAxAx | xorBxBx =>
    cases h0
    exact decodeFrom_of_build (b := true) (h8 1 _ rfl) ⟨_, _, rfl, rfl, rfl, rfl⟩
  | movD16Ax w | movAxD16 w | movWordSiImm16 w | addD16Ax w | addAxD16 w | subAxD16 w | cmpAxD16 w
  | incByteD16 w | decByteD16 w =>
    cases h0
    exact decodeFrom_of_build (b := true) (h8 1 _ rfl) ⟨_, _, rfl, rfl, bind_of_ok (h16 2 w rfl rfl), rfl⟩
  | movByteD16Imm8 d b =>
    cases h0
    exact decodeFrom_of_build (b := true) (h8 1 _ rfl)
      ⟨_, _, rfl, rfl, (bind_of_ok (h16 2 d rfl rfl)).trans (bind_of_ok (h8 4 b rfl)), rfl⟩
  | movWordD16Imm16 d w =>
    cases h0
    exact decodeFrom_of_build (b := true) (h8 1 _ rfl)
      ⟨_, _, rfl, rfl, (bind_of_ok (h16 2 d rfl rfl)).trans (bind_of_ok (h16 4 w rfl rfl)), rfl⟩
  | cmpAxImm8 m b =>
    cases h0
    exact decodeFrom_of_build (b := true) (h8 1 m rfl) ⟨_, _, selectedRow_cmp83 hw, rfl, bind_of_ok (h8 2 b rfl), rfl⟩
  | mulAl =>
    cases h0
    refine decodeFrom_of_build (b := true) (h8 1 _ rfl) ?_
    obtain ⟨p, b, q, j, mode, k, v⟩ := c
    cases mode with
    | byModrm => exact ⟨_, _, rfl, rfl, rfl, rfl⟩
    | variantAlAl => exact ⟨_, _, rfl, rfl, rfl, rfl⟩
    | variantAlMemBx => cases hw
  | mulByteBx =>
    cases h0
    refine decodeFrom_of_build (b := true) (h8 1 _ rfl) ?_
    obtain ⟨p, b, q, j, mode, k, v⟩ := c
    cases mode with
    | byModrm => exact ⟨_, _, rfl, rfl, rfl, rfl⟩
    | variantAlAl => cases hw
    | variantAlMemBx => exact ⟨_, _, rfl, rfl, rfl, rfl⟩

end

/-- The instruction at the front of a list of bytes, and the bytes that its length leaves (R87). -/
theorem decode_cons_eq_ok {c : Config} {op : Byte} {tl rest : List Byte} {i : Instr} :
    decode c (op :: tl) = .ok (i, rest) ↔
      decodeFrom c (byteField (op :: tl)) (wordField (op :: tl)) id op = .ok i ∧ (op :: tl).drop i.length = rest := by
  unfold decode
  dsimp only
  cases decodeFrom c (byteField (op :: tl)) (wordField (op :: tl)) id op with
  | error e => exact ⟨nofun, fun h => nomatch h.1⟩
  | ok j =>
    constructor
    · intro h; cases h; exact ⟨rfl, rfl⟩
    · rintro ⟨h, rfl⟩; cases h; rfl

theorem byteField_of_getElem? {bs : List Byte} {k : Nat} {b : Byte} (h : bs[k]? = some b) : byteField bs k = .ok b := by
  rw [byteField, h]

theorem wordField_of_getElem? {bs : List Byte} {k : Nat} {w : Word} (hlo : bs[k]? = some (lowByte w))
    (hhi : bs[k + 1]? = some (highByte w)) : wordField bs k = .ok w := by
  rw [wordField, bind_of_ok (byteField_of_getElem? hlo), bind_of_ok (byteField_of_getElem? hhi),
    joinBytes_lowByte_highByte]

theorem length_encode (i : Instr) : (encode i).length = i.length := by cases i <;> rfl

theorem encode_eq_cons (i : Instr) : ∃ op tl, encode i = op :: tl := by cases i <;> exact ⟨_, _, rfl⟩

/-- Settles O44: an encoding followed by any bytes still holds every field where the decoder fetches it. -/
theorem decodeOfEncodeIsTheInstruction : Obligations.DecodeOfEncodeIsTheInstruction := by
  unfold Obligations.DecodeOfEncodeIsTheInstruction
  intro c i rest hw
  obtain ⟨op, tl, he⟩ := encode_eq_cons i
  have hmem {k : Nat} {b : Byte} (h : (encode i)[k]? = some b) : (op :: (tl ++ rest))[k]? = some b := by
    obtain ⟨hk, -⟩ := List.getElem?_eq_some_iff.mp h
    rw [← List.cons_append, ← he, List.getElem?_append_left hk, h]
  rw [he, List.cons_append]
  refine decode_cons_eq_ok.mpr ⟨decodeFrom_encode hw (by rw [he]; rfl) (fun _ _ h => byteField_of_getElem? (hmem h))
    fun _ _ hlo hhi => wordField_of_getElem? (hmem hlo) (hmem hhi), ?_⟩
  rw [← List.cons_append, ← he, ← length_encode, List.drop_left]

/-- Settles O46: the words are the encodings of their instructions. -/
theorem specWordsDecode : Obligations.SpecWordsDecode :=
  have h (i : Instr) (hw : i.wellFormed defaultConfig = true) := decodeOfEncodeIsTheInstruction defaultConfig i [] hw
  ⟨h (.movR8Imm8 .ah 0x56) rfl, h (.movWordD16Imm16 0x0024 0x0120) rfl, h (.cmpAxImm8 0xF8 0xFF) rfl,
    h (.jmpRel16 0x0100) rfl, h .stosb rfl, h (.decByteD16 0x0200) rfl, h (.inAlImm8 0x60) rfl, h (.intImm8 0x21) rfl⟩

end Sys2Proof.Proofs
end

section
/-! PROOFS. Bytes that decode are the encoding of what they decode to (30_encoding.md R84, R85, R87). -/

namespace Sys2Proof.Proofs

open Sys2Proof.Machine

variable {c : Config} {bs : List Byte} {op m : Byte} {r : Row} {f : Fields} {k : Nat}

/-! ## The bytes of the fields -/

/-- The formats with a ModRM byte (R85). -/
def hasModrm : Format → Bool
  | .op | .opI8 | .opR8 | .opI16 | .opA16 | .opR16 => false
  | .opM | .opMI8 | .opMD16 | .opMI16 | .opMD16I8 | .opMD16I16 => true

/-- The bytes after the opcode, in fetch order (R85). -/
def fieldBytes (f : Fields) : Format → List Byte
  | .op => []
  | .opI8 | .opR8 => [f.b]
  | .opI16 | .opA16 | .opR16 => wordBytes f.w
  | .opM => [f.m]
  | .opMI8 => [f.m, f.b]
  | .opMD16 => f.m :: wordBytes f.d
  | .opMI16 => f.m :: wordBytes f.w
  | .opMD16I8 => f.m :: (wordBytes f.d ++ [f.b])
  | .opMD16I16 => f.m :: (wordBytes f.d ++ wordBytes f.w)

theorem fieldBytes_of_not_hasModrm {fmt : Format} (h : hasModrm fmt = false) :
    fieldBytes { f with m := m } fmt = fieldBytes f fmt := by
  cases fmt with
  | op | opI8 | opR8 | opI16 | opA16 | opR16 => rfl
  | opM | opMI8 | opMD16 | opMI16 | opMD16I8 | opMD16I16 => cases h

theorem drop_of_byteField {b : Byte} (h : byteField bs k = .ok b) : bs.drop k = b :: bs.drop (k + 1) := by
  rw [byteField] at h
  cases hb : bs[k]? with
  | none => simp [hb] at h
  | some b' =>
    obtain ⟨hk, rfl⟩ := List.getElem?_eq_some_iff.mp hb
    simp only [hb, Except.ok.injEq] at h
    rw [← h, List.drop_eq_getElem_cons]

theorem drop_of_wordField {w : Word} (h : wordField bs k = .ok w) : bs.drop k = wordBytes w ++ bs.drop (k + 2) := by
  obtain ⟨lo, hlo, h⟩ := except_bind_eq_ok.mp h
  obtain ⟨hi, hhi, h⟩ := except_bind_eq_ok.mp h
  obtain rfl := Except.ok.inj h
  rw [drop_of_byteField hlo, drop_of_byteField hhi, wordBytes, lowByte_joinBytes, highByte_joinBytes]
  rfl

/-- What the fields keep of the opcode and the ModRM byte. -/
theorem fetchFields_op_modrm {ε : Type} {f8 : Nat → Except ε Byte} {f16 : Nat → Except ε Word} {fmt : Format}
    (h : fmt.fetchFields f8 f16 op m = .ok f) : f.r = op.setWidth 3 ∧ f.m = m := by
  cases fmt with
  | op | opM => cases h; exact ⟨rfl, rfl⟩
  | opI8 | opR8 | opI16 | opA16 | opR16 | opMI8 | opMD16 | opMI16 =>
    obtain ⟨_, -, h⟩ := except_bind_eq_ok.mp h
    cases h
    exact ⟨rfl, rfl⟩
  | opMD16I8 | opMD16I16 =>
    obtain ⟨_, -, h⟩ := except_bind_eq_ok.mp h
    obtain ⟨_, -, h⟩ := except_bind_eq_ok.mp h
    cases h
    exact ⟨rfl, rfl⟩

/-- The fields fetched from a list of bytes are what stands in it after the opcode. -/
theorem drop_of_fetchFields {fmt : Format} (h : fmt.fetchFields (byteField bs) (wordField bs) op m = .ok f)
    (hm : hasModrm fmt = true → byteField bs 1 = .ok m) : ∃ rest, bs.drop 1 = fieldBytes f fmt ++ rest := by
  have hm1 (ht : hasModrm fmt = true) : bs.drop 1 = m :: bs.drop 2 := drop_of_byteField (hm ht)
  cases fmt with
  | op => exact ⟨_, rfl⟩
  | opI8 | opR8 =>
    obtain ⟨b, hb, h⟩ := except_bind_eq_ok.mp h
    cases h
    exact ⟨_, drop_of_byteField hb⟩
  | opI16 | opA16 | opR16 =>
    obtain ⟨w, hw, h⟩ := except_bind_eq_ok.mp h
    cases h
    exact ⟨_, drop_of_wordField hw⟩
  | opM =>
    cases h
    exact ⟨_, hm1 rfl⟩
  | opMI8 =>
    obtain ⟨b, hb, h⟩ := except_bind_eq_ok.mp h
    cases h
    exact ⟨_, (hm1 rfl).trans (congrArg (m :: ·) (drop_of_byteField hb))⟩
  | opMD16 | opMI16 =>
    obtain ⟨w, hw, h⟩ := except_bind_eq_ok.mp h
    cases h
    exact ⟨_, (hm1 rfl).trans (congrArg (m :: ·) (drop_of_wordField hw))⟩
  | opMD16I8 =>
    obtain ⟨d, hd, h⟩ := except_bind_eq_ok.mp h
    obtain ⟨b, hb, h⟩ := except_bind_eq_ok.mp h
    cases h
    refine ⟨bs.drop 5, ?_⟩
    rw [hm1 rfl, drop_of_wordField hd, drop_of_byteField hb]
    rfl
  | opMD16I16 =>
    obtain ⟨d, hd, h⟩ := except_bind_eq_ok.mp h
    obtain ⟨w, hw, h⟩ := except_bind_eq_ok.mp h
    cases h
    refine ⟨bs.drop 6, ?_⟩
    rw [hm1 rfl, drop_of_wordField hd, drop_of_wordField hw]
    rfl

/-! ## The rows of the opcode map -/

/-- What a row builds from fields it accepts is well-formed, and encodes as the opcode and these fields. -/
structure WritesBack (c : Config) (r : Row) : Prop where
  modrm : r.modrm.isSome = hasModrm r.format
  build : ∀ op f, r.acceptsOpcode op = true → f.r = op.setWidth 3 → (r.modrm = none ∨ r.acceptsModrm c f.m = true) →
    encode (r.build f) = op :: fieldBytes f r.format ∧ (r.build f).wellFormed c = true

/-- The ModRM byte of a row that names one. -/
def namedModrm (r : Row) : Option Byte :=
  match r.modrm with
  | some (.exactly v) => some v
  | _ => none

/-- Each of the rows names its opcode and any ModRM byte, and its instruction is encoded as these and the row's
further fields: as equations between lists, which `rfl` checks row by row. -/
structure NameTheirBytes (c : Config) (rows : List Row) : Prop where
  mask : rows.map (·.opMask) = rows.map fun _ => 0xFF
  named : rows.map (·.modrm) = rows.map fun r => (namedModrm r).map .exactly
  modrm : rows.map (fun r => r.modrm.isSome) = rows.map fun r => hasModrm r.format
  bytes : rows.map (fun r f => encode (r.build f)) =
    rows.map fun r f => r.opMatch :: fieldBytes { f with m := (namedModrm r).getD 0 } r.format
  wellFormed : rows.map (fun r f => (r.build f).wellFormed c) = rows.map fun _ _ => true

/-- A row whose mask is full accepts one opcode byte only. -/
theorem eq_opMatch_of_acceptsOpcode (hmask : r.opMask = 0xFF) (h : r.acceptsOpcode op = true) : op = r.opMatch := by
  rw [Row.acceptsOpcode, hmask, show (0xFF : Byte) = BitVec.allOnes 8 from rfl, BitVec.and_allOnes] at h
  exact beq_iff_eq.mp h

theorem NameTheirBytes.writesBack {rows : List Row} (h : NameTheirBytes c rows) : ∀ r ∈ rows, WritesBack c r := by
  intro r hr
  have hmask := List.map_inj_left.mp h.mask r hr
  have hnamed := List.map_inj_left.mp h.named r hr
  have hbytes := congrFun (List.map_inj_left.mp h.bytes r hr)
  have hwf := congrFun (List.map_inj_left.mp h.wellFormed r hr)
  have hmodrm := List.map_inj_left.mp h.modrm r hr
  refine ⟨hmodrm, fun op f hop _ hm => ⟨?_, hwf f⟩⟩
  rw [hbytes f, eq_opMatch_of_acceptsOpcode hmask hop]
  cases hv : namedModrm r with
  | none =>
    rw [hnamed, hv] at hmodrm
    rw [fieldBytes_of_not_hasModrm hmodrm.symm]
  | some v =>
    rw [hv] at hnamed
    have hfv : f.m = v := by simpa [hnamed, Row.acceptsModrm] using hm
    rw [Option.getD_some, ← hfv]

/-! ## The register number in the low bits of an opcode (10_state.md R23) -/

theorem reg8_toBits_ofBits : ∀ b, (Reg8.ofBits b).toBits = b := by decide

theorem reg16_toBits_ofBits : ∀ b, (Reg16.ofBits b).toBits = b := by decide

theorem highBits_or_lowBits (op : Byte) : op &&& 0xF8 ||| (op.setWidth 3).setWidth 8 = op := by
  revert op
  decide

/-! ## The whole map -/

/-- The rows that name their opcode and ModRM bytes: all but the two of `MOV reg, imm` and that of opcode 0x83. -/
def namingRows : List Row :=
  movRows.drop 2 ++ arithRows.dropLast ++ controlRows ++ stackRows ++ logicRows ++ ioRows ++ systemRows ++
    mulRows .byModrm

theorem mem_opcodeMap (hc : c.mulF6Mode = .byModrm) (hr : r ∈ opcodeMap c) :
    r ∈ movRows.take 2 ∨ r ∈ [arithRows.getLast nofun] ∨ r ∈ namingRows := by
  rw [opcodeMap, hc, ← movRows.take_append_drop 2, ← arithRows.dropLast_append_getLast nofun] at hr
  simp only [namingRows, List.mem_append] at hr ⊢
  tauto

theorem writesBack_movRegisterImmediate : ∀ r ∈ movRows.take 2, WritesBack c r := by
  have hop {op m : Byte} (h : (op &&& 0xF8 == m) = true) : m ||| (op.setWidth 3).setWidth 8 = op := by
    rw [← beq_iff_eq.mp h, highBits_or_lowBits]
  refine List.forall_mem_cons.mpr ⟨⟨rfl, fun op f ho hr _ => ⟨?_, rfl⟩⟩,
    List.forall_mem_singleton.mpr ⟨rfl, fun op f ho hr _ => ⟨?_, rfl⟩⟩⟩
  · show [0xB0 ||| (Reg8.ofBits f.r).toBits.setWidth 8, f.b] = [op, f.b]
    rw [reg8_toBits_ofBits, hr, hop ho]
  · show (0xB8 ||| (Reg16.ofBits f.r).toBits.setWidth 8) :: wordBytes f.w = op :: wordBytes f.w
    rw [reg16_toBits_ofBits, hr, hop ho]

theorem writesBack_cmp83 : WritesBack c (arithRows.getLast nofun) := by
  refine ⟨rfl, fun op f ho _ hm => ⟨?_, hm.resolve_left nofun⟩⟩
  rw [eq_opMatch_of_acceptsOpcode rfl ho]
  rfl

theorem opcodeMap_writesBack (hc : c.mulF6Mode = .byModrm) (hr : r ∈ opcodeMap c) : WritesBack c r := by
  rcases mem_opcodeMap hc hr with h | h | h
  · exact writesBack_movRegisterImmediate r h
  · rw [List.mem_singleton.mp h]
    exact writesBack_cmp83
  · obtain ⟨p, b, q, j, mode, k, v⟩ := c
    cases hc
    have hrows : NameTheirBytes ⟨p, b, q, j, .byModrm, k, v⟩ namingRows := ⟨rfl, rfl, rfl, rfl, rfl⟩
    exact hrows.writesBack r h

/-- A selected row is one of the map that accepts the opcode and any ModRM byte. -/
theorem mem_of_selectedRow (hs : selectedRow c op m = some r) :
    r ∈ opcodeMap c ∧ r.acceptsOpcode op = true ∧ (r.modrm = none ∨ r.acceptsModrm c m = true) := by
  suffices h : r ∈ rowsFor c op ∧ (r.modrm = none ∨ r.acceptsModrm c m = true) by
    obtain ⟨hmem, hop⟩ := List.mem_filter.mp h.1
    exact ⟨hmem, hop, h.2⟩
  unfold selectedRow at hs
  cases hrows : rowsFor c op with
  | nil => simp [hrows] at hs
  | cons row rest =>
    simp only [hrows] at hs
    split at hs
    · exact ⟨List.mem_of_find?_eq_some hs, .inr (by simpa using List.find?_some hs)⟩
    · next hnone =>
      cases hs
      exact ⟨.head _, .inl (by simpa using hnone)⟩

/-- Settles O45: the bytes after the opcode are the fields that were fetched, and the row builds an instruction that
encodes as the opcode and these fields. -/
theorem encodeOfDecodeIsTheBytes : Obligations.EncodeOfDecodeIsTheBytes := by
  unfold Obligations.EncodeOfDecodeIsTheBytes
  intro c bs rest i hc h
  cases bs with
  | nil => cases h
  | cons op tl =>
    obtain ⟨hd, rfl⟩ := decode_cons_eq_ok.mp h
    obtain ⟨m, r, f, hs, hm, hf, rfl⟩ := exists_build_of_decodeFrom_eq_ok hd
    obtain ⟨hmem, hop, hacc⟩ := mem_of_selectedRow hs
    have hr := opcodeMap_writesBack hc hmem
    obtain ⟨hfr, hfm⟩ := fetchFields_op_modrm hf
    obtain ⟨hencode, hwf⟩ := hr.build op f hop hfr (hfm ▸ hacc)
    have hm1 (ht : hasModrm r.format = true) : byteField (op :: tl) 1 = .ok m := by
      rwa [hr.modrm.trans ht] at hm
    obtain ⟨rest, hrest⟩ := drop_of_fetchFields hf hm1
    have hbytes : op :: tl = encode (r.build f) ++ rest := by
      rw [hencode, List.cons_append, ← hrest, List.drop_one, List.tail_cons]
    rw [hbytes, ← length_encode, List.drop_left]
    exact ⟨rfl, hwf⟩

end Sys2Proof.Proofs
end

section
/-! PROOFS. The step from the fetch on: the instruction at CS:IP, and fetches outside memory (30_encoding.md R80,
R82). -/

namespace Sys2Proof.Proofs

open Sys2Proof.Machine Sys2Proof.Claims

variable {s s1 h : State} {i : Instr} {op m : Byte} {k : Nat}

/-! ## The step -/

theorem step_of_halted (hr : s.running = false) : step s = .next s := step_eq_next.mpr (.inl ⟨hr, rfl⟩)

/-- Settles O50, by induction on the number of steps. -/
theorem haltedEngineIgnoresSteps : Obligations.HaltedEngineIgnoresSteps := by
  unfold Obligations.HaltedEngineIgnoresSteps
  intro s hr
  refine ⟨step_of_halted hr, fun n => ?_⟩
  induction n with
  | zero => rfl
  | succ n ih =>
    have hstep : core.step s = .next s := step_of_halted hr
    simp only [Host.Core.run, hstep, ih]

/-- What the decoder answers for the opcode `op` fetched at CS:IP of `s1`. -/
def decodedAt (s1 : State) (op : Byte) : Except State Instr :=
  decodeFrom s1.cfg (fetch8 s1.ip (s1.afterOpcode op)) (fetch16 s1.ip (s1.afterOpcode op))
    (rejectEncoding s1.ip (s1.afterOpcode op)) op

theorem fetch_of_fits (hfit : Fits (translate s1.segs.cs s1.ip) 1) (hop : s1.byteAt (translate s1.segs.cs s1.ip) = op) :
    fetch s1 = decodedAt s1 op >>= fun i => .ok (i, s1.afterOpcode op) := by
  subst hop
  rw [fetch, read8_of_fits hfit]
  rfl

theorem step_of_decoded (hf : FetchesOpcode s s1 op) (hd : decodedAt s1 op = .ok i) :
    step s = exec i (s1.afterOpcode op) := by
  obtain ⟨hrun, hservice, hfit, hop⟩ := hf
  have hfetch : fetch s1 = .ok (i, s1.afterOpcode op) := by rw [fetch_of_fits hfit hop, hd]; rfl
  simp only [step, hrun, hservice, hfetch, if_true]

theorem step_of_fetch_error (hrun : s.running = true) (hservice : serviceInterrupts s = .ok s1)
    (hf : fetch s1 = .error h) : step s = .next h :=
  step_eq_next.mpr (.inr ⟨hrun, .inr ⟨s1, hservice, .inl hf⟩⟩)

theorem step_of_decode_error (hf : FetchesOpcode s s1 op) (hd : decodedAt s1 op = .error h) : step s = .next h := by
  obtain ⟨hrun, hservice, hfit, hop⟩ := hf
  exact step_of_fetch_error hrun hservice (by rw [fetch_of_fits hfit hop, hd]; rfl)

/-! ## The interrupt service leaves the parameters alone -/

theorem pollKeyboard_cfg (s : State) : (pollKeyboard s).cfg = s.cfg := by
  rw [pollKeyboard_eq]
  split <;> rfl

theorem Entered.cfg (he : Entered s s1) : s1.cfg = s.cfg := by
  obtain ⟨u, ip, cs, hu, rfl⟩ := he
  rw [hu.eq]
  rfl

theorem serviceInterrupts_cfg (hs : serviceInterrupts s = .ok s1) : s1.cfg = s.cfg := by
  rcases serviceInterrupts_eq_ok.mp hs with ⟨-, rfl⟩ | ⟨-, u, hu, rfl⟩
  · exact pollKeyboard_cfg s
  · exact ((ends_iff.mp (ends_enterInterrupt ..)).1 u hu).cfg.trans (pollKeyboard_cfg s)

/-! ## The fields at their offsets -/

theorem fetch8_of_fits (hfit : Fits (fetchAddress s1.segs.cs s1.ip k) 1) :
    fetch8 s1.ip (s1.afterOpcode op) k = .ok (s1.byteAt (fetchAddress s1.segs.cs s1.ip k)) := read8_of_fits hfit

theorem fetch16_of_fits (hfit : Fits (fetchAddress s1.segs.cs s1.ip k) 2) :
    fetch16 s1.ip (s1.afterOpcode op) k = .ok (s1.wordAt (fetchAddress s1.segs.cs s1.ip k)) := read16_of_fits hfit

theorem fetch8_of_not_fits (hfit : ¬ Fits (fetchAddress s1.segs.cs s1.ip k) 1) :
    fetch8 s1.ip (s1.afterOpcode op) k = .error (haltedByField s1 op k) := read8_of_not_fits hfit

theorem fetch16_of_not_fits (hfit : ¬ Fits (fetchAddress s1.segs.cs s1.ip k) 2) :
    fetch16 s1.ip (s1.afterOpcode op) k = .error (haltedByField s1 op k) := read16_of_not_fits hfit

/-- The next offset lies at the next physical byte, unless it is the one that wraps to 0: then no offset before it has
wrapped (R82). -/
theorem fetchAddress_succ (cs ip : Word) (hk : k < 0xFFFF) :
    fetchAddress cs ip (k + 1) = fetchAddress cs ip k + 1 ∨ fetchAddress cs ip k = Machine.translate cs ip + k := by
  have := ip.isLt
  simp only [fetchAddress, Machine.translate, BitVec.toNat_add, BitVec.toNat_ofNat]
  omega

theorem length_encode_le (i : Instr) : (encode i).length ≤ 6 := by
  rw [length_encode]
  unfold Instr.length
  split <;> decide

/-- A word of code is read in one access: where its second offset wraps, its second byte is the next physical one. -/
theorem word_of_codeAt {lo hi : Byte} (hc : CodeAt s1 i) (hlo : (encode i)[k]? = some lo)
    (hhi : (encode i)[k + 1]? = some hi) :
    Fits (fetchAddress s1.segs.cs s1.ip k) 2 ∧ s1.wordAt (fetchAddress s1.segs.cs s1.ip k) = joinBytes lo hi := by
  obtain ⟨-, hbyte, -, -⟩ := hc k lo hlo
  have hnext : Fits (fetchAddress s1.segs.cs s1.ip k + 1) 1 ∧ s1.byteAt (fetchAddress s1.segs.cs s1.ip k + 1) = hi := by
    obtain ⟨hoff, hoffbyte, hphys, hphysbyte⟩ := hc (k + 1) hi hhi
    obtain ⟨hk, -⟩ := List.getElem?_eq_some_iff.mp hhi
    have hlen := length_encode_le i
    rcases fetchAddress_succ s1.segs.cs s1.ip (k := k) (by omega) with e | e
    · rw [← e]
      exact ⟨hoff, hoffbyte⟩
    · rw [e]
      exact ⟨hphys, hphysbyte⟩
  exact ⟨hnext.1, by rw [State.wordAt, hbyte, hnext.2]⟩

/-- Settles O52: the fetches answer the bytes of the code, so the decoder answers the instruction. -/
theorem stepRunsTheInstructionAtCsIp : Obligations.StepRunsTheInstructionAtCsIp := by
  unfold Obligations.StepRunsTheInstructionAtCsIp
  intro s s1 i op hrun hservice hw hcode hop
  obtain ⟨-, -, hfit, hbyte⟩ := hcode 0 op hop
  refine step_of_decoded ⟨hrun, hservice, hfit, hbyte⟩ (decodeFrom_encode (by rwa [serviceInterrupts_cfg hservice]) hop
    (fun k b hb => ?_) fun k w hlo hhi => ?_)
  · obtain ⟨hfit, rfl, -, -⟩ := hcode k b hb
    exact fetch8_of_fits hfit
  · obtain ⟨hfit, hword⟩ := word_of_codeAt hcode hlo hhi
    rw [fetch16_of_fits hfit, hword, joinBytes_lowByte_highByte]

/-! ## Fields outside memory -/

/-- Offset and size of the first field after the opcode and any ModRM byte (R85). -/
def firstField : Format → Option (Nat × Nat)
  | .op | .opM => none
  | .opI8 | .opR8 => some (1, 1)
  | .opI16 | .opA16 | .opR16 => some (1, 2)
  | .opMI8 => some (2, 1)
  | .opMD16 | .opMI16 | .opMD16I8 | .opMD16I16 => some (2, 2)

theorem fetchFields_of_first_not_fits {fmt : Format} {n : Nat} (hfmt : firstField fmt = some (k, n))
    (hfit : ¬ Fits (fetchAddress s1.segs.cs s1.ip k) n) :
    fmt.fetchFields (fetch8 s1.ip (s1.afterOpcode op)) (fetch16 s1.ip (s1.afterOpcode op)) op m =
      .error (haltedByField s1 op k) := by
  cases fmt with
  | op | opM => cases hfmt
  | opI8 | opR8 | opMI8 => cases hfmt; exact bind_of_error (fetch8_of_not_fits hfit)
  | opI16 | opA16 | opR16 | opMD16 | opMI16 | opMD16I8 | opMD16I16 =>
    cases hfmt
    exact bind_of_error (fetch16_of_not_fits hfit)

/-- Whether the selected row has a ModRM byte, and its first field after it. -/
def selectedShape (c : Config) (op m : Byte) : Option (Bool × Option (Nat × Nat)) :=
  (selectedRow c op m).map fun r => (r.modrm.isSome, firstField r.format)

section
variable {c : Config}

theorem selectedShape_of_byteAtOffsetOne : ∀ op ∈ byteAtOffsetOne, selectedShape c op 0 = some (false, some (1, 1)) :=
  List.map_inj_left.mp rfl

theorem selectedShape_of_wordAtOffsetOne : ∀ op ∈ wordAtOffsetOne, selectedShape c op 0 = some (false, some (1, 2)) :=
  List.map_inj_left.mp rfl

theorem selectedShape_of_wordAtOffsetTwo :
    ∀ p ∈ wordAtOffsetTwo, selectedShape c p.1 p.2 = some (true, some (2, 2)) := List.map_inj_left.mp rfl

theorem selectedShape_cmp83 (hm : acceptsModrm c 0x83 m = true) :
    selectedShape c 0x83 m = some (true, some (2, 1)) := by
  have hm : modrmMatches c.cmp83Match m = true := by simpa [acceptsModrm, modrmMatches] using hm
  rw [selectedShape, selectedRow_cmp83 hm]
  rfl

theorem rowsFor_of_modrmOpcodes : ∀ op ∈ modrmOpcodes, (rowsFor c op).head?.map (·.modrm.isSome) = some true := by
  obtain ⟨p, b, q, j, mode, k, v⟩ := c
  cases mode <;> exact List.map_inj_left.mp rfl

/-- An opcode with a ModRM byte fetches that byte first. -/
theorem decodeFrom_of_modrm_error {ε : Type} {f8 : Nat → Except ε Byte} {f16 : Nat → Except ε Word}
    {reject : DecodeError → ε} {e : ε} (hop : op ∈ modrmOpcodes) (h1 : f8 1 = .error e) :
    decodeFrom c f8 f16 reject op = .error e := by
  have hhead := rowsFor_of_modrmOpcodes (c := c) op hop
  unfold decodeFrom
  cases hrows : rowsFor c op with
  | nil => simp [hrows] at hhead
  | cons row rest =>
    simp only [hrows, List.head?_cons, Option.map_some, Option.some.injEq] at hhead
    obtain ⟨rule, hrule⟩ := Option.isSome_iff_exists.mp hhead
    simp only [hrule]
    exact bind_of_error h1

end

/-- The decoding halts at the first field after the opcode and any ModRM byte where that field does not fit. -/
theorem decodedAt_of_first_not_fits {hasModrm : Bool} {n : Nat}
    (hshape : selectedShape s1.cfg op m = some (hasModrm, some (k, n)))
    (hm : ModrmIs (fetch8 s1.ip (s1.afterOpcode op)) m hasModrm) (hfit : ¬ Fits (fetchAddress s1.segs.cs s1.ip k) n) :
    decodedAt s1 op = .error (haltedByField s1 op k) := by
  obtain ⟨r, hs, hr⟩ := Option.map_eq_some_iff.mp hshape
  obtain ⟨rfl, hfmt⟩ := Prod.mk.inj hr
  exact (decodeFrom_of_selected hs hm).trans (bind_of_error (fetchFields_of_first_not_fits hfmt hfit))

theorem fetch8_of_fetchesModrm (hm : FetchesModrm s1 m) : fetch8 s1.ip (s1.afterOpcode op) 1 = .ok m := by
  obtain ⟨hfit, hbyte⟩ := hm
  rw [fetch8_of_fits hfit, hbyte]

/-- The immediate of C6 06 and C7 06 is fetched after the displacement. -/
theorem decodedAt_of_immediate_not_fits (hm : FetchesModrm s1 0x06) (hd : Fits (fetchAddress s1.segs.cs s1.ip 2) 2)
    (h : (op = 0xC6 ∧ ¬ Fits (fetchAddress s1.segs.cs s1.ip 4) 1) ∨
      (op = 0xC7 ∧ ¬ Fits (fetchAddress s1.segs.cs s1.ip 4) 2)) :
    decodedAt s1 op = .error (haltedByField s1 op 4) := by
  rcases h with ⟨rfl, h4⟩ | ⟨rfl, h4⟩
  · have hs : selectedRow s1.cfg 0xC6 0x06 = some (modrmRow 0xC6 0x06 .opMD16I8 fun f => .movByteD16Imm8 f.d f.b) := rfl
    exact (decodeFrom_of_selected hs (fetch8_of_fetchesModrm hm)).trans
      (bind_of_error ((bind_of_ok (fetch16_of_fits hd)).trans (bind_of_error (fetch8_of_not_fits h4))))
  · have hs : selectedRow s1.cfg 0xC7 0x06 =
        some (modrmRow 0xC7 0x06 .opMD16I16 fun f => .movWordD16Imm16 f.d f.w) := rfl
    exact (decodeFrom_of_selected hs (fetch8_of_fetchesModrm hm)).trans
      (bind_of_error ((bind_of_ok (fetch16_of_fits hd)).trans (bind_of_error (fetch16_of_not_fits h4))))

/-- Settles O53: the first fetch that does not fit ends the decoding, and with it the step. -/
theorem fetchOutsideMemoryHalts : Obligations.FetchOutsideMemoryHalts := by
  unfold Obligations.FetchOutsideMemoryHalts
  refine ⟨fun s s1 hrun hservice hfit => ?_, fun s s1 op hop h => ?_, fun s s1 op m hop hm h => ?_,
    fun s s1 op m hop hm hd h => ?_⟩
  · exact step_of_fetch_error hrun hservice (bind_of_error (read8_of_not_fits hfit))
  · refine step_of_decode_error hop ?_
    rcases h with ⟨hi | hi, hfit⟩ | ⟨hi, hfit⟩
    · exact decodedAt_of_first_not_fits (selectedShape_of_byteAtOffsetOne op hi) rfl hfit
    · exact decodeFrom_of_modrm_error hi (fetch8_of_not_fits hfit)
    · exact decodedAt_of_first_not_fits (selectedShape_of_wordAtOffsetOne op hi) rfl hfit
  · refine step_of_decode_error hop ?_
    have h1 := fetch8_of_fetchesModrm (op := op) hm
    rcases h with ⟨hi, hfit⟩ | ⟨rfl, hacc, hfit⟩
    · exact decodedAt_of_first_not_fits (selectedShape_of_wordAtOffsetTwo (op, m) hi) h1 hfit
    · obtain ⟨-, hservice, -⟩ := hop
      rw [← serviceInterrupts_cfg hservice] at hacc
      exact decodedAt_of_first_not_fits (selectedShape_cmp83 hacc) h1 hfit
  · refine step_of_decode_error hop ?_
    rcases h with ⟨hi, rfl, hfit⟩ | ⟨hi, rfl, hfit⟩
    · exact decodedAt_of_immediate_not_fits hm hd (.inl ⟨hi, hfit⟩)
    · exact decodedAt_of_immediate_not_fits hm hd (.inr ⟨hi, hfit⟩)

end Sys2Proof.Proofs
end

section
/-! PROOFS. Data transfer (40_mov.md R100 to R112). -/

namespace Sys2Proof.Proofs

open Sys2Proof.Machine Sys2Proof.Claims

variable {s t : State}

/-- A meaning whose first part answers ends as its second part does. -/
theorem finish_of_ok {α : Type} {x : Except State α} {f : α → Except State State} {a : α} (hx : x = .ok a)
    (hf : f a = .ok t) : finish (x >>= f) = .next t := by
  rw [hx, ok_bind, hf, finish_ok]

/-! ## Writes to an 8-bit register name (R22) -/

/-- A write to an 8-bit name is a write to the register it is half of. -/
theorem exists_setReg8_eq_setReg (s : State) (r : Reg8) (v : Byte) :
    ∃ w, s.setReg8 r v = s.setReg (wholeOf r) w := by
  cases r <;> exact ⟨_, rfl⟩

/-- An 8-bit name reads back what was written to it; every other one, the other half included, what it held. -/
theorem reg8_setReg8 (s : State) (r q : Reg8) (v : Byte) :
    (s.setReg8 r v).reg8 q = if q = r then v else s.reg8 q := by
  cases r <;> cases q <;> simp [State.setReg8, State.setReg, State.reg8]

theorem reg_setReg8_of_ne_wholeOf {r : Reg8} {q : Reg16} (v : Byte) (h : q ≠ wholeOf r) :
    (s.setReg8 r v).reg q = s.reg q := by
  obtain ⟨w, hw⟩ := exists_setReg8_eq_setReg s r v
  rw [hw, State.reg_setReg, if_neg h]

theorem setReg8_eq_regs (s : State) (r : Reg8) (v : Byte) :
    s.setReg8 r v = { s with regs := (s.setReg8 r v).regs } := by
  obtain ⟨w, hw⟩ := exists_setReg8_eq_setReg s r v
  rw [hw]
  rfl

theorem wholeOf_mem (r : Reg8) : wholeOf r ∈ [Reg16.ax, .cx, .dx, .bx] := by
  cases r <;> decide

/-! ## The forms -/

/-- Settles O7: each form is one register write, and the flag update where it has one, before IP moves on. -/
theorem movRegisterFormsWriteTheirDestination : Obligations.MovRegisterFormsWriteTheirDestination := by
  unfold Obligations.MovRegisterFormsWriteTheirDestination
  refine ⟨fun r imm s => ⟨_, rfl, ?_, fun q hq => ?_, fun q hq => ?_, ?_⟩,
    fun r imm s => ⟨_, rfl, ?_, fun q hq => ?_, ?_⟩, fun _ => rfl, fun _ => rfl, fun _ => rfl⟩
  · exact (reg8_setReg8 ..).trans (if_pos rfl)
  · exact (reg8_setReg8 ..).trans (if_neg hq)
  · have hne : q ≠ wholeOf r := fun e => hq (e ▸ wholeOf_mem r)
    exact reg_setReg8_of_ne_wholeOf imm hne
  · exact congrArg (·.advance 2) (setReg8_eq_regs s r imm)
  · exact (State.reg_setReg ..).trans (if_pos rfl)
  · exact (State.reg_setReg ..).trans (if_neg hq)
  · rw [updateFlags_eq]
    rfl

/-- Settles O8: the operand is read, and the rest of each form writes registers, flags and IP. -/
theorem movLoadsReadTheirOperand : Obligations.MovLoadsReadTheirOperand := by
  unfold Obligations.MovLoadsReadTheirOperand
  refine ⟨fun d s h => ?_, fun a s h => ?_, fun a s h => ?_⟩
  · rw [← updateFlags_eq]
    exact finish_of_ok (read16_of_fits h) rfl
  · exact finish_of_ok (read8_of_fits h) rfl
  · exact finish_of_ok (read16_of_fits h) rfl

/-- A form that stores a word and moves IP past its bytes. -/
theorem storesWord_of_writeOperand16 (m : MemOperand) (v len : Word) (h : Fits (s.ea m) 2) :
    ∃ t, finish (writeOperand16 m v s >>= fun u => .ok (u.advance len)) = .next t ∧
      StoresWord s t (s.ea m) v ∧ t = { s with mem := t.mem, ip := s.opip + len } :=
  ⟨_, finish_of_ok (write16_of_fits v h) rfl, storesWord_setWord s (s.ea m) v, rfl⟩

/-- Settles O9: the operand is stored, and the rest of each form moves IP only. -/
theorem movStoresWriteTheirOperand : Obligations.MovStoresWriteTheirOperand := by
  unfold Obligations.MovStoresWriteTheirOperand
  refine ⟨fun d s => ?_, fun d imm s h => ?_, fun d imm s => ?_, fun imm s => ?_⟩
  · exact storesWord_of_writeOperand16 (.direct d) s.regs.ax 4
  · exact ⟨_, finish_of_ok (write8_of_fits imm h) rfl, storesByte_setByte s (s.ea (.direct d)) imm, rfl⟩
  · exact storesWord_of_writeOperand16 (.direct d) imm 6
  · exact storesWord_of_writeOperand16 .siRelative imm 4

end Sys2Proof.Proofs
end

section
/-! PROOFS. ADD, SUB and CMP (41_arith.md R113 to R131), and JA after a compare. -/

namespace Sys2Proof.Proofs

open Sys2Proof.Machine Sys2Proof.Claims

variable (s : State) (b len : Word)

/-! ## Additions and subtractions over AX, in the statements' terms (R113, R114) -/

theorem ofInt_toNat_sub_toNat {w : Nat} (x y : BitVec w) : BitVec.ofInt w (x.toNat - y.toNat) = x - y := by
  have h := BitVec.ofInt_add (n := w) (x.toNat - y.toNat) y.toNat
  rw [Int.sub_add_cancel, BitVec.ofInt_natCast, BitVec.ofInt_natCast, BitVec.ofNat_toNat, BitVec.ofNat_toNat,
    BitVec.setWidth_eq, BitVec.setWidth_eq] at h
  exact (BitVec.sub_eq_iff_eq_add.mpr h).symm

theorem addFlags_eq (c : Config) (x y : Word) (f : Flags) : addFlags c x y f =
    withZsp c (BitVec.ofNat 16 (x.toNat + y.toNat)) { f with carry := decide (0xFFFF < x.toNat + y.toNat) } :=
  updateFlags_eq ..

theorem subFlags_ax_eq : subFlags s.cfg s.regs.ax b s.flags = subFlagsResult s b := by
  rw [subFlags, updateFlags_eq, subFlagsResult, ofInt_toNat_sub_toNat, subBorrow]

theorem addToAx_eq : addToAx b len s = addResult s b len := by
  rw [addToAx, addFlags_eq]
  rfl

theorem subFromAx_eq : subFromAx b len s = { s with
    regs := { s.regs with ax := BitVec.ofInt 16 (s.regs.ax.toNat - b.toNat) }
    flags := subFlagsResult s b
    ip := s.opip + len } := by
  rw [subFromAx, subFlags_ax_eq, ofInt_toNat_sub_toNat]
  rfl

theorem compareAx_eq : compareAx b len s = { s with flags := subFlagsResult s b, ip := s.opip + len } := by
  rw [compareAx, subFlags_ax_eq]
  rfl

theorem sext16_eq_ofInt (b : Byte) : sext16 b = BitVec.ofInt 16 b.toInt := rfl

theorem exec_cmpAxBx : exec .cmpAxBx s = .next { s with flags := subFlagsResult s s.regs.bx, ip := s.opip + 2 } :=
  congrArg _ (compareAx_eq s s.regs.bx 2)

/-! ## The forms -/

/-- Settles O10: the operand is read where it is in memory, and added to AX. -/
theorem addToAxWrapsAndSetsFlags : Obligations.AddToAxWrapsAndSetsFlags := by
  unfold Obligations.AddToAxWrapsAndSetsFlags
  refine ⟨fun s => ?_, fun d s h => ?_, fun s h => ?_, fun imm s => ?_⟩
  · exact congrArg _ (addToAx_eq s s.regs.bx 2)
  · exact finish_of_ok (read16_of_fits h) (congrArg _ (addToAx_eq ..))
  · exact finish_of_ok (read16_of_fits h) (congrArg _ (addToAx_eq ..))
  · exact congrArg _ (addToAx_eq s imm 3)

/-- Settles O11: the operand is read, the sum is stored where it was read, and the flags are those of the sum. -/
theorem addToMemoryStoresTheSum : Obligations.AddToMemoryStoresTheSum := by
  unfold Obligations.AddToMemoryStoresTheSum
  intro d s h
  refine ⟨_, finish_of_ok (read16_of_fits h) (bind_of_ok (write16_of_fits _ h)), storesWord_setWord s .., ?_⟩
  rw [addFlags_eq]
  rfl

/-- Settles O12: the operand is read where it is in memory, and subtracted from AX. -/
theorem subFromAxWrapsAndSetsFlags : Obligations.SubFromAxWrapsAndSetsFlags := by
  unfold Obligations.SubFromAxWrapsAndSetsFlags
  refine ⟨fun s => ?_, fun d s h => ?_, fun imm s => ?_⟩
  · exact congrArg _ (subFromAx_eq s s.regs.bx 2)
  · exact finish_of_ok (read16_of_fits h) (congrArg _ (subFromAx_eq ..))
  · exact congrArg _ (subFromAx_eq s imm 3)

/-- Settles O13: the operand is read where it is in memory, and compared with AX. -/
theorem compareAxWritesFlagsOnly : Obligations.CompareAxWritesFlagsOnly := by
  unfold Obligations.CompareAxWritesFlagsOnly
  refine ⟨exec_cmpAxBx, fun d s h => ?_, fun m imm s => ?_⟩
  · exact finish_of_ok (read16_of_fits h) (congrArg _ (compareAx_eq ..))
  · rw [← sext16_eq_ofInt]
    exact congrArg _ (compareAx_eq s (sext16 imm) 3)

/-- Settles O14: the flags are those of the byte difference, and only IP moves besides. -/
theorem compareAlUsesTheByteResult : Obligations.CompareAlUsesTheByteResult := by
  unfold Obligations.CompareAlUsesTheByteResult
  intro imm s
  rw [ofInt_toNat_sub_toNat, ← updateFlagsByte_eq]
  rfl

/-! ## JA after a compare (R128, R144) -/

theorem subFlagsResult_carry : (subFlagsResult s b).carry = decide (s.regs.ax.toNat < b.toNat) := rfl

theorem subFlagsResult_zero : (subFlagsResult s b).zero = decide (s.regs.ax = b) := by
  simp only [subFlagsResult, withZsp, ofInt_toNat_sub_toNat, ← beq_zero_eq_decide, beq_eq_decide, sub_eq_zero]

/-- The condition of JA, on the flags of a compare: neither below nor equal is above. -/
theorem above_of_subFlagsResult :
    (!(subFlagsResult s b).carry && !(subFlagsResult s b).zero) = decide (b.toNat < s.regs.ax.toNat) := by
  rw [subFlagsResult_carry, subFlagsResult_zero, Bool.eq_iff_iff]
  simp only [Bool.and_eq_true, Bool.not_eq_true', decide_eq_false_iff_not, decide_eq_true_eq, BitVec.toNat_eq]
  omega

theorem exec_ja (rel : Byte) (s : State) :
    exec (.ja rel) s = .next (jumpShortIf (!s.flags.carry && !s.flags.zero) rel s) := rfl

/-- Settles O15: CF and ZF of the compare say whether JA is taken, and its opcode address is the IP that the compare
left. -/
theorem jaAfterCmpTestsUnsignedGreater : Obligations.JaAfterCmpTestsUnsignedGreater := by
  unfold Obligations.JaAfterCmpTestsUnsignedGreater
  intro s t rel h op
  rw [exec_cmpAxBx] at h
  cases h
  rw [exec_ja, State.afterOpcode_flags, above_of_subFlagsResult, jumpShortIf, State.afterOpcode_opip, sext16_eq_ofInt]
  simp only [decide_eq_true_eq]
  rfl

end Sys2Proof.Proofs
end

section
/-! PROOFS. Jumps, CALL and RET (42_control.md R132 to R148). -/

namespace Sys2Proof.Proofs

open Sys2Proof.Machine Sys2Proof.Claims

variable {s : State}

/-! ## Jump targets, in the statements' terms (R132) -/

/-- The target of a two-byte jump: the signed displacement counts from the next instruction, modulo 65536. -/
theorem ofInt_toNat_add_two_add_toInt (base : Word) (rel : Byte) :
    BitVec.ofInt 16 ((base.toNat : Int) + 2 + rel.toInt) = base + 2 + sext16 rel := by
  rw [BitVec.ofInt_add, BitVec.ofInt_add, BitVec.ofInt_natCast, BitVec.ofNat_toNat, BitVec.setWidth_eq,
    ← sext16_eq_ofInt]
  rfl

/-- The target of a three-byte jump or call that counts from the next instruction, modulo 65536. -/
theorem ofNat_toNat_add_three_add_toNat (base rel : Word) :
    BitVec.ofNat 16 (base.toNat + 3 + rel.toNat) = base + 3 + rel := by
  simp [BitVec.ofNat_add]

/-! ## Jumps (R140 to R146) -/

/-- A jump whose test `b` decides the condition `p` of its rule writes IP only. -/
theorem jumpShortIf_eq {b : Bool} {p : Prop} [Decidable p] (hp : b = true ↔ p) (rel : Byte) (s : State) :
    jumpShortIf b rel s = { s with
      ip := if p then BitVec.ofInt 16 ((s.opip.toNat : Int) + 2 + rel.toInt) else s.opip + 2 } := by
  rw [jumpShortIf, ofInt_toNat_add_two_add_toInt]
  simp only [hp]
  rfl

/-- Settles O16: each form is one two-byte jump, with the test of its rule. -/
theorem conditionalJumpsTestTheirFlags : Obligations.ConditionalJumpsTestTheirFlags := by
  unfold Obligations.ConditionalJumpsTestTheirFlags
  intro rel s
  have hnot (b : Bool) : (!b) = true ↔ b = false := by simp
  have hnone : (!s.flags.carry && !s.flags.zero) = true ↔ s.flags.carry = false ∧ s.flags.zero = false := by simp
  exact ⟨congrArg _ (jumpShortIf_eq .rfl rel s), congrArg _ (jumpShortIf_eq (hnot _) rel s),
    congrArg _ (jumpShortIf_eq .rfl rel s), congrArg _ (jumpShortIf_eq (hnot _) rel s),
    congrArg _ (jumpShortIf_eq hnone rel s)⟩

/-- Settles O17, by what JMP_NEAR_BASE says. -/
theorem jmpNearCountsFromItsOpcodeAddress : Obligations.JmpNearCountsFromItsOpcodeAddress := by
  unfold Obligations.JmpNearCountsFromItsOpcodeAddress
  refine ⟨fun c rel rest => decodeOfEncodeIsTheInstruction c (.jmpRel16 rel) rest rfl, fun rel s => ?_⟩
  show Host.Outcome.next (s.setIp (jmpNearBase s + rel)) = _
  rw [jmpNearBase]
  cases s.cfg.jmpNearBase with
  | opcodeAddress => rfl
  | nextInstruction => simp only [ofNat_toNat_add_three_add_toNat]; rfl

/-- Settles O18: the two-byte jump without a test. -/
theorem jmpShortCountsFromTheNextInstruction : Obligations.JmpShortCountsFromTheNextInstruction := by
  unfold Obligations.JmpShortCountsFromTheNextInstruction
  intro rel s
  rw [ofInt_toNat_add_two_add_toInt]
  rfl

/-! ## CALL and RET (R147, R148) -/

theorem exec_callRel16_of_fits (rel : Word) (h : Fits (below s 2) 2) : exec (.callRel16 rel) s =
    .next (((lowered s 2).setWord (below s 2) (s.opip + 3)).setIp (s.opip + 3 + rel)) :=
  finish_of_ok (push_of_fits (s.opip + 3) h) rfl

theorem exec_ret_of_fits (h : Fits (above s 0) 2) :
    exec .ret s = .next ((raised s 2).setIp (s.wordAt (above s 0))) :=
  finish_of_ok (pop_of_fits h) rfl

/-- Settles O19: CALL is a push and RET a pop, and each then moves IP. -/
theorem callPushesReturnAddressAndRetPopsIt : Obligations.CallPushesReturnAddressAndRetPopsIt := by
  unfold Obligations.CallPushesReturnAddressAndRetPopsIt
  refine ⟨fun rel s h => ?_, fun _ => exec_ret_of_fits⟩
  rw [ofNat_toNat_add_three_add_toNat]
  exact ⟨_, exec_callRel16_of_fits rel h, storesWord_setWord (lowered s 2) .., rfl⟩

/-- The top of the stack is the word that pushes of `k` bytes stored last. -/
theorem above_lowered (s : State) (k : Word) : above (lowered s k) 0 = below s k :=
  congrArg (Machine.translate s.segs.ss) (BitVec.add_zero _)

/-- Settles O20: RET pops the word that CALL stored, from the address where it stored it, and raises SP by what CALL
lowered it. -/
theorem retAfterCallReturnsBehindTheCall : Obligations.RetAfterCallReturnsBehindTheCall := by
  unfold Obligations.RetAfterCallReturnsBehindTheCall
  intro rel s h
  refine ⟨_, exec_callRel16_of_fits rel h, fun op => ?_⟩
  have htop := above_lowered s 2
  have hword : ((lowered s 2).setWord (below s 2) (s.opip + 3)).wordAt (above (lowered s 2) 0) = s.opip + 3 := by
    rw [htop, State.wordAt_setWord_same]
  have hregs := congrArg State.regs (raised_lowered s 2)
  exact ⟨_, exec_ret_of_fits (htop ▸ h), hword, hregs, rfl, rfl⟩

end Sys2Proof.Proofs
end

section
/-! PROOFS. Stack and string instructions (43_stack_string.md R160 to R166). -/

namespace Sys2Proof.Proofs

open Sys2Proof.Machine Sys2Proof.Claims

variable {s : State}

/-! ## PUSH and POP (R160 to R164) -/

/-- A form that pushes a word and moves IP past its bytes. -/
theorem storesWord_of_push (v len : Word) (h : Fits (below s 2) 2) :
    ∃ t, finish (push s.opip v s >>= fun u => .ok (u.advance len)) = .next t ∧ StoresWord s t (below s 2) v ∧
      t = { s with regs := { s.regs with sp := s.regs.sp - 2 }, mem := t.mem, ip := s.opip + len } :=
  ⟨_, finish_of_ok (push_of_fits v h) rfl, storesWord_setWord (lowered s 2) .., rfl⟩

/-- Settles O21: each form is one push, of AX or of CS. -/
theorem pushFormsStoreBelowSp : Obligations.PushFormsStoreBelowSp := by
  unfold Obligations.PushFormsStoreBelowSp
  intro s h
  exact ⟨storesWord_of_push s.regs.ax 1 h, storesWord_of_push s.segs.cs 1 h⟩

/-- A form that begins with a pop halts where the pop faults, with nothing but the engine changed (R58, R202). -/
theorem faultsAt_of_pop (f : Word × State → Except State State) (h : ¬ Fits (above s 0) 2) :
    ∃ u, finish (pop s.opip s >>= f) = .next u ∧ FaultsAt s u (above s 0) :=
  ⟨_, finish_of_error (pop_of_not_fits h), faultsAt_haltedByMemory ..⟩

/-- Settles O22: each form is one pop, and where it fits its word goes to the form's register. -/
theorem popFormsLoadFromSp : Obligations.PopFormsLoadFromSp := by
  unfold Obligations.PopFormsLoadFromSp
  refine ⟨fun c rest => ?_, fun s h => ?_, fun s h => ?_⟩
  · have hd (i : Instr) := decodeOfEncodeIsTheInstruction c i rest
    exact ⟨hd .popAx rfl, hd .popDs rfl, hd .popEs rfl⟩
  · have hp := pop_of_fits (o := s.opip) h
    exact ⟨finish_of_ok hp rfl, finish_of_ok hp rfl, finish_of_ok hp rfl⟩
  · simp only [List.forall_mem_cons]
    exact ⟨faultsAt_of_pop _ h, faultsAt_of_pop _ h, faultsAt_of_pop _ h, nofun⟩

/-! ## LODSB and STOSB (R165, R166) -/

theorem ofNat_toNat_add_one (x : Word) : BitVec.ofNat 16 (x.toNat + 1) = x + 1 := by
  rw [BitVec.ofNat_add, BitVec.ofNat_toNat, BitVec.setWidth_eq]
  rfl

/-- Settles O23: each form is one byte access, and where it fits the index register rises by 1. -/
theorem stringFormsMoveOneByteUpwards : Obligations.StringFormsMoveOneByteUpwards := by
  unfold Obligations.StringFormsMoveOneByteUpwards
  simp only [ofNat_toNat_add_one]
  refine ⟨fun c rest => ?_, fun s h => ?_, fun s h => ?_, fun s h => ?_, fun s h => ?_⟩
  · have hd (i : Instr) := decodeOfEncodeIsTheInstruction c i rest
    exact ⟨hd .lodsb rfl, hd .stosb rfl⟩
  · exact finish_of_ok (read8_of_fits h) rfl
  · exact ⟨_, finish_of_ok (write8_of_fits _ h) rfl, storesByte_setByte s .., rfl⟩
  · exact ⟨_, finish_of_error (read8_of_not_fits h), faultsAt_haltedByMemory ..⟩
  · exact ⟨_, finish_of_error (write8_of_not_fits _ h), faultsAt_haltedByMemory ..⟩

end Sys2Proof.Proofs
end

section
/-! PROOFS. XOR, INC, DEC and MUL (44_logic_incdec_mul.md R170 to R175). -/

namespace Sys2Proof.Proofs

open Sys2Proof.Machine Sys2Proof.Claims

/-! ## XOR of a register with itself (R170, R171) -/

/-- 0x00 has an even number of set bits, so its parity is PARITY_EVEN_IS_ONE itself (R27). -/
theorem parityOf_zero (c : Config) : parityOf c 0 = c.parityEvenIsOne := by
  rw [parityOf, show xorFold 0 = false from rfl]
  cases c.parityEvenIsOne <;> rfl

theorem updateFlags_zero (c : Config) (f : Flags) :
    updateFlags c 0 f = { f with zero := true, sign := false, parity := c.parityEvenIsOne } := by
  rw [← parityOf_zero c]
  rfl

/-- Settles O24: each form clears its register, and the flags are those of the result 0. -/
theorem xorZeroesItsRegister : Obligations.XorZeroesItsRegister := by
  unfold Obligations.XorZeroesItsRegister
  intro s
  rw [← updateFlags_zero]
  exact ⟨rfl, rfl⟩

/-! ## INC and DEC (R172, R173) -/

/-- A byte that fits is stored back with `delta` added modulo 256; of the flags only ZF, SF and PF are written. -/
theorem storesByte_of_bumpByte (delta : Byte) (d : Word) (s : State) (h : Fits (s.ea (.direct d)) 1) :
    ∃ t, finish (bumpByte delta d s) = .next t ∧
      StoresByte s t (s.ea (.direct d)) (s.byteAt (s.ea (.direct d)) + delta) ∧
      t = { s with
        flags := withZspByte s.cfg (s.byteAt (s.ea (.direct d)) + delta) s.flags, mem := t.mem, ip := s.opip + 4 } := by
  rw [← updateFlagsByte_eq]
  exact ⟨_, finish_of_ok (read8_of_fits h) (bind_of_ok (write8_of_fits _ h)), storesByte_setByte s .., rfl⟩

theorem byte_ofNat_toNat_add_one (x : Byte) : BitVec.ofNat 8 (x.toNat + 1) = x + 1 :=
  (BitVec.add_def x 1).symm

/-- Subtracting 1 modulo 256 is adding 0xFF (R173). -/
theorem byte_ofInt_toNat_sub_one (x : Byte) : BitVec.ofInt 8 (x.toNat - 1) = x + 0xFF :=
  (ofInt_toNat_sub_toNat x 1).trans (BitVec.sub_eq_add_neg x 1)

/-- Settles O25: INC adds 1 and DEC adds 0xFF to the same byte. -/
theorem incDecBumpTheByteAndKeepCarry : Obligations.IncDecBumpTheByteAndKeepCarry := by
  unfold Obligations.IncDecBumpTheByteAndKeepCarry
  intro d s h
  rw [byte_ofNat_toNat_add_one, byte_ofInt_toNat_sub_one]
  exact ⟨storesByte_of_bumpByte 1 d s h, storesByte_of_bumpByte 0xFF d s h⟩

/-! ## MUL (R174, R175) -/

theorem byte_toNat_mul_toNat_lt (a b : Byte) : a.toNat * b.toNat < 65536 :=
  Nat.mul_lt_mul'' a.isLt b.isLt

/-- The product of two bytes is not cut to 16 bits. -/
theorem toNat_byteProduct (a b : Byte) : (byteProduct a b).toNat = a.toNat * b.toNat :=
  (BitVec.toNat_ofNat ..).trans (Nat.mod_eq_of_lt (byte_toNat_mul_toNat_lt a b))

theorem mulAlBy_eq (s : State) (b : Byte) : mulAlBy b s = mulResult s b := by
  rw [mulAlBy, mulFlags, toNat_byteProduct, updateFlags_eq]
  rfl

/-- Settles O26: the operand is read where it is in memory, and AL is multiplied by it. -/
theorem mulPutsTheExactProductInAx : Obligations.MulPutsTheExactProductInAx := by
  unfold Obligations.MulPutsTheExactProductInAx
  refine ⟨fun s => ?_, fun s h => ?_, byte_toNat_mul_toNat_lt⟩
  · exact congrArg _ (mulAlBy_eq s (lowByte s.regs.ax))
  · exact finish_of_ok (read8_of_fits h) (congrArg _ (mulAlBy_eq ..))

/-- Opcode 0xF6 selects the rows that MUL_F6_MODE names, and no other. -/
theorem rowsFor_mul (c : Config) : rowsFor c 0xF6 = mulRows c.mulF6Mode := by
  obtain ⟨p, b, q, j, mode, k, v⟩ := c
  cases mode <;> rfl

/-- Where one row takes every ModRM byte after 0xF6, the decoder answers its instruction and the bytes behind both. -/
theorem decode_mul_of_every {c : Config} {i : Instr} (m : Byte) (rest : List Byte)
    (hrows : mulRows c.mulF6Mode = [⟨0xFF, 0xF6, some .every, .opM, fun _ => i⟩]) (hlength : i.length = 2) :
    decode c (0xF6 :: m :: rest) = .ok (i, rest) := by
  have hrow : selectedRow c 0xF6 m = some ⟨0xFF, 0xF6, some .every, .opM, fun _ => i⟩ := by
    rw [selectedRow, rowsFor_mul, hrows]
    rfl
  refine decode_cons_eq_ok.mpr ⟨decodeFrom_of_build (m := m) (b := true) rfl ⟨_, _, hrow, rfl, rfl, rfl⟩, ?_⟩
  rw [hlength]
  rfl

/-- Settles O47: each variant of MUL_F6_MODE has one row, which takes every ModRM byte. -/
theorem mulVariantsIgnoreModrm : Obligations.MulVariantsIgnoreModrm := by
  unfold Obligations.MulVariantsIgnoreModrm
  intro c m rest
  exact ⟨fun hc => decode_mul_of_every m rest (by rw [hc]; rfl) rfl,
    fun hc => decode_mul_of_every m rest (by rw [hc]; rfl) rfl⟩

end Sys2Proof.Proofs
end

section
/-! PROOFS. IN and OUT (45_io.md R180 to R183), through the port multiplexer (60_exceptions.md R224 to R227). -/

namespace Sys2Proof.Proofs

open Sys2Proof.Machine Sys2Proof.Claims

/-! ## IN (R180, R181) -/

/-- A read of a queue that is not empty pops its head, and clears status bit 0 when that empties the queue (R224). -/
theorem read60_eq_of_not_empty {k : Keyboard} (h : k.head ≠ k.tail) :
    k.read60 = (k.slot k.head, { k with
      head := k.head + 1
      status := if k.head + 1 = k.tail then k.status &&& 0xFE else k.status }) := by
  simp only [Keyboard.read60, Keyboard.dequeue, Keyboard.isEmpty, beq_iff_eq, if_neg h]
  split <;> rfl

/-- A port read answers the port's value and changes the queue only (R226). -/
theorem portRead_eq (p : Byte) (s : State) : portRead p s = (portValue s p, s.setKbd (queueAfterRead s p)) := by
  by_cases hp : p = 0x60
  · by_cases hempty : s.kbd.head = s.kbd.tail
    · simp [portRead, portValue, queueAfterRead, hp, hempty, read60_of_empty]
    · simp [portRead, portValue, queueAfterRead, hp, hempty, read60_eq_of_not_empty]
  · have hkbd : queueAfterRead s p = s.kbd := if_neg fun h => hp h.1
    rw [hkbd, portRead, portValue, if_neg hp, if_neg hp]
    split
    · rfl
    · split <;> rfl

theorem zext16_eq_joinBytes_zero (b : Byte) : zext16 b = joinBytes b 0 :=
  BitVec.setWidth_eq_append (by decide)

/-- Settles O27: both forms are one port read, whose value goes to AL or, zero-extended, to AX. -/
theorem inReadsOnePort : Obligations.InReadsOnePort := by
  unfold Obligations.InReadsOnePort
  intro p s
  constructor
  · show execInAlImm8 p s = _
    rw [execInAlImm8, portRead_eq]
    rfl
  · show execInAxImm8 p s = _
    rw [execInAxImm8, portRead_eq, ← zext16_eq_joinBytes_zero]
    rfl

/-! ## OUT (R182, R183) -/

/-- A port write changes the PIC only (R227). -/
theorem portWrite_eq (p v : Byte) (s : State) : portWrite p v s = s.setPic (picAfterWrite s p v) := by
  by_cases himr : p = 0x21
  · rw [portWrite, picAfterWrite, if_pos himr, if_pos himr]
  · rw [portWrite, picAfterWrite, if_neg himr, if_neg himr, ite_and]
    split
    · split <;> rfl
    · rfl

theorem advance_portWrite (p v : Byte) (s : State) :
    (portWrite p v s).advance 2 = { s with pic := picAfterWrite s p v, ip := s.opip + 2 } := by
  rw [portWrite_eq]
  rfl

/-- Settles O28: both forms are one port write, of AL, which is the low byte of AX. -/
theorem outWritesOnePort : Obligations.OutWritesOnePort := by
  unfold Obligations.OutWritesOnePort
  intro p s
  have hwrite := advance_portWrite p (lowByte s.regs.ax) s
  exact ⟨congrArg Host.Outcome.next hwrite, congrArg Host.Outcome.next hwrite⟩

end Sys2Proof.Proofs
end

section
/-! PROOFS. Interrupt entry and return (46_system.md R190, R191, 60_exceptions.md R212), CLI, STI and HLT (R192 to
R194). -/

namespace Sys2Proof.Proofs

open Sys2Proof.Machine Sys2Proof.Claims

variable {s u : State} {o ret : Word}

/-! ## Interrupt entry (R212) -/

theorem lowered_lowered (s : State) (j k : Word) : lowered (lowered s j) k = lowered s (j + k) :=
  congrArg (s.setReg .sp) (BitVec.sub_sub ..)

/-- The push that follows pushes of `k` bytes, which have left memory as `m`. -/
theorem push_lowered_of_fits (v : Word) {k : Word} (m : List Host.Cell) (h : Fits (below s (k + 2)) 2) :
    push o v { lowered s k with mem := m } =
      .ok ({ lowered s (k + 2) with mem := m }.setWord (below s (k + 2)) v) := by
  rw [← below_lowered] at h ⊢
  rw [← lowered_lowered]
  exact push_of_fits v h

/-- FLAGS, CS and the return address stored below SS:SP, in this order, and SP lowered past them. -/
def entryPushed (s : State) (ret : Word) : State :=
  (((lowered s 6).setWord (below s 2) (packFlags s.flags)).setWord (below s 4) s.segs.cs).setWord (below s 6) ret

/-- The state an interrupt entry ends in where its pushes fit. -/
def entered (s : State) (n : Byte) (ret : Word) : State :=
  let u := entryPushed s ret
  (((u.setIp (u.wordAt (ivtEntry n))).setSeg .cs (u.wordAt (ivtEntry n + 2))).setFlags
    { s.flags with interrupt := false }).setPic { s.pic with isr := s.pic.isr ||| irq1 }

theorem byteAt_entered (s : State) (n : Byte) (ret : Word) (a : Nat) :
    (entered s n ret).byteAt a = (entryPushed s ret).byteAt a := by
  simp only [entered, State.byteAt_setPic, State.byteAt_setFlags, State.byteAt_setSeg, State.byteAt_setIp]

theorem wordAt_entered (s : State) (n : Byte) (ret : Word) (a : Nat) :
    (entered s n ret).wordAt a = (entryPushed s ret).wordAt a := by
  rw [State.wordAt, State.wordAt, byteAt_entered, byteAt_entered]

theorem enterInterrupt_of_fits (n : Byte) (ret : Word) (h2 : Fits (below s 2) 2) (h4 : Fits (below s 4) 2)
    (h6 : Fits (below s 6) 2) : enterInterrupt o n ret s = .ok (entered s n ret) :=
  enterInterrupt_eq_ok.mpr ⟨_, _, _, push_of_fits _ h2, push_lowered_of_fits (k := 2) _ _ h4,
    push_lowered_of_fits (k := 4) _ _ h6, rfl⟩

/-- Two words below SS:SP that lie two or more bytes apart share no byte, wherever SP wraps between them. -/
theorem below_words_apart {j k : Word} (hjk : 2 ≤ (j - k).toNat) (hkj : 2 ≤ (k - j).toNat) :
    below s j + 1 < below s k ∨ below s k + 1 < below s j := by
  simp only [below, Machine.translate, BitVec.toNat_sub] at *
  omega

/-- The three words of an entry read back as they were pushed: none overwrites another. -/
theorem wordAt_entryPushed (s : State) (ret : Word) :
    (entryPushed s ret).wordAt (below s 2) = packFlags s.flags ∧ (entryPushed s ret).wordAt (below s 4) = s.segs.cs ∧
      (entryPushed s ret).wordAt (below s 6) = ret := by
  have h24 : below s 2 + 1 < below s 4 ∨ below s 4 + 1 < below s 2 := below_words_apart (by decide) (by decide)
  have h26 : below s 2 + 1 < below s 6 ∨ below s 6 + 1 < below s 2 := below_words_apart (by decide) (by decide)
  have h46 : below s 4 + 1 < below s 6 ∨ below s 6 + 1 < below s 4 := below_words_apart (by decide) (by decide)
  refine ⟨?_, ?_, State.wordAt_setWord_same ..⟩
  · rw [entryPushed, State.wordAt_setWord_other _ _ h26, State.wordAt_setWord_other _ _ h24, State.wordAt_setWord_same]
  · rw [entryPushed, State.wordAt_setWord_other _ _ h46, State.wordAt_setWord_same]

theorem byteAt_entryPushed {a : Nat}
    (ha : a ∉ [below s 2, below s 2 + 1, below s 4, below s 4 + 1, below s 6, below s 6 + 1]) :
    (entryPushed s ret).byteAt a = s.byteAt a := by
  simp only [List.mem_cons, List.not_mem_nil, or_false, not_or] at ha
  obtain ⟨h2, h2', h4, h4', h6, h6'⟩ := ha
  rw [entryPushed, State.byteAt_setWord_other _ _ h6 h6', State.byteAt_setWord_other _ _ h4 h4',
    State.byteAt_setWord_other _ _ h2 h2', lowered, State.byteAt_setReg]

theorem packFlags_eq_ofNat (f : Flags) : packFlags f = BitVec.ofNat 16 (packed f) := by
  rw [← toNat_packFlags, BitVec.ofNat_toNat, BitVec.setWidth_eq]

theorem enters_entered (s : State) (n : Byte) (ret : Word) : Enters s (entered s n ret) n ret s.pic.irr := by
  obtain ⟨hflags, hcs, hret⟩ := wordAt_entryPushed s ret
  simp only [Enters, wordAt_entered, byteAt_entered]
  exact ⟨hflags.trans (packFlags_eq_ofNat s.flags), hcs, hret, fun _ => byteAt_entryPushed, rfl⟩

/-! ## INT (R190) -/

theorem exec_intImm8_of_fits (n : Byte) (hi : s.flags.interrupt = true) (h2 : Fits (below s 2) 2)
    (h4 : Fits (below s 4) 2) (h6 : Fits (below s 6) 2) : exec (.intImm8 n) s = .next (entered s n (s.opip + 2)) :=
  (if_pos hi).trans (congrArg finish (enterInterrupt_of_fits n _ h2 h4 h6))

/-- Settles O31, by IF. -/
theorem intEntersItsVectorOrIsSkipped : Obligations.IntEntersItsVectorOrIsSkipped := by
  unfold Obligations.IntEntersItsVectorOrIsSkipped
  refine ⟨fun n s hi h2 h4 h6 => ⟨_, exec_intImm8_of_fits n hi h2 h4 h6, enters_entered s n _⟩, fun n s hi => ?_⟩
  have hnot : ¬ s.flags.interrupt = true := by simp [hi]
  exact if_neg hnot

/-! ## IRET (R191) -/

/-- The state a return from an interrupt ends in where its pops fit. -/
def returned (s : State) : State :=
  { raised s 6 with
    segs := { s.segs with cs := s.wordAt (above s 2) }
    ip := s.wordAt (above s 0)
    flags := unpackFlags (s.wordAt (above s 4))
    pic := { s.pic with isr := 0 } }

theorem exec_iret_of_fits (h0 : Fits (above s 0) 2) (h2 : Fits (above s 2) 2) (h4 : Fits (above s 4) 2) :
    exec .iret s = .next (returned s) :=
  congrArg finish (interruptReturn_eq_ok.mpr
    ⟨_, _, _, _, _, _, pop_of_fits h0, pop_raised_of_fits h2, pop_raised_of_fits (k := 4) h4, rfl⟩)

/-- FLAGS as restored are bits 6:0 of the popped word. -/
theorem packed_unpackFlags (w : Word) : packed (unpackFlags w) = w.toNat % 128 := by
  rw [← toNat_packFlags, packFlags_unpackFlags, BitVec.toNat_and]
  exact Nat.and_two_pow_sub_one_eq_mod w.toNat 7

/-- Settles O32: the three pops, and the flags as the third word packs them. -/
theorem iretRestoresIpCsFlagsAndClearsIsr : Obligations.IretRestoresIpCsFlagsAndClearsIsr := by
  unfold Obligations.IretRestoresIpCsFlagsAndClearsIsr
  intro s h0 h2 h4
  exact ⟨_, exec_iret_of_fits h0 h2 h4, packed_unpackFlags _, rfl⟩

/-! ## IRET after INT -/

/-- From an entry's lowered SP, the word `j` bytes up the stack is the one `k` bytes below where SP was. -/
theorem above_eq_below {j k : Word} (hjk : j + k = 6) (hsp : u.regs.sp = s.regs.sp - 6)
    (hss : u.segs.ss = s.segs.ss) : above u j = below s k := by
  have h : s.regs.sp - 6 + j = s.regs.sp - k := by rw [← hjk]; bv_omega
  rw [above, hsp, hss, h, below]

/-- Settles O33: the three words INT pushes are the three that IRET pops, and the flags unpack as they were packed. -/
theorem iretUndoesInterruptEntry : Obligations.IretUndoesInterruptEntry := by
  unfold Obligations.IretUndoesInterruptEntry
  intro n s hi h2 h4 h6
  refine ⟨_, exec_intImm8_of_fits n hi h2 h4 h6, fun u hsp hss hwords => ?_⟩
  obtain ⟨hflags, hcs, hret⟩ := wordAt_entryPushed s (s.opip + 2)
  have hfl : above u 4 = below s 2 := above_eq_below rfl hsp hss
  have hcs' : above u 2 = below s 4 := above_eq_below rfl hsp hss
  have hip : above u 0 = below s 6 := above_eq_below rfl hsp hss
  refine ⟨_, exec_iret_of_fits (hip ▸ h6) (hcs' ▸ h4) (hfl ▸ h2), ?_, ?_, ?_, ?_, rfl⟩
  · show u.wordAt (above u 0) = _
    rw [hip, hwords 6 (by decide), wordAt_entered, hret]
  · show u.wordAt (above u 2) = _
    rw [hcs', hwords 4 (by decide), wordAt_entered, hcs]
  · show unpackFlags (u.wordAt (above u 4)) = _
    rw [hfl, hwords 2 (by decide), wordAt_entered, hflags, unpackFlags_packFlags]
  · show u.regs.sp + 6 = _
    rw [hsp]; exact BitVec.sub_add_cancel ..

/-! ## CLI, STI and HLT (R192 to R194) -/

/-- Settles O34: each form is one update beside IP, and after HLT the engine is halted. -/
theorem cliStiWriteIfAndHltHalts : Obligations.CliStiWriteIfAndHltHalts := by
  unfold Obligations.CliStiWriteIfAndHltHalts
  refine ⟨fun c rest => ?_, fun s => ⟨rfl, rfl, rfl, ?_⟩⟩
  · have hd (i : Instr) := decodeOfEncodeIsTheInstruction c i rest
    exact ⟨hd .cli rfl, hd .sti rfl, hd .hlt rfl⟩
  · obtain ⟨-, hrun⟩ := haltedEngineIgnoresSteps { s with running := false, ip := s.opip + 1 } rfl
    exact hrun

end Sys2Proof.Proofs
end

section
/-! PROOFS. An opcode byte outside the opcode map (30_encoding.md R84, R88, 60_exceptions.md R205). -/

namespace Sys2Proof.Proofs

open Sys2Proof.Machine Sys2Proof.Claims

variable {c : Config} {r : Row} {op : Byte}

/-- A row that takes a register number in the low bits accepts the opcodes that differ from its own there only. -/
theorem opMatch_or_lowBits_of_acceptsOpcode (hmask : r.opMask = 0xF8) (h : r.acceptsOpcode op = true) :
    r.opMatch ||| (op.setWidth 3).setWidth 8 = op := by
  rw [Row.acceptsOpcode, hmask] at h
  rw [← beq_iff_eq.mp h, highBits_or_lowBits]

/-- The rows that name one opcode byte: all but the two of `MOV reg, imm`. -/
def oneOpcodeRows (c : Config) : List Row :=
  movRows.drop 2 ++ arithRows ++ controlRows ++ stackRows ++ logicRows ++ ioRows ++ systemRows ++ mulRows c.mulF6Mode

theorem oneOpcodeRows_listed : ∀ r ∈ oneOpcodeRows c, r.opMask = 0xFF ∧ r.opMatch ∈ listedOpcodes := by
  unfold oneOpcodeRows
  cases c.mulF6Mode <;> decide

theorem movRegisterImmediate_listed :
    ∀ r ∈ movRows.take 2, r.opMask = 0xF8 ∧ ∀ b : BitVec 3, r.opMatch ||| b.setWidth 8 ∈ listedOpcodes := by decide

/-- Every opcode byte that a row of the map accepts is listed. -/
theorem mem_listedOpcodes_of_acceptsOpcode (hr : r ∈ opcodeMap c) (h : r.acceptsOpcode op = true) :
    op ∈ listedOpcodes := by
  have hrows : r ∈ movRows.take 2 ++ oneOpcodeRows c := hr
  rcases List.mem_append.mp hrows with hmov | hone
  · obtain ⟨hmask, hlisted⟩ := movRegisterImmediate_listed r hmov
    rw [← opMatch_or_lowBits_of_acceptsOpcode hmask h]
    exact hlisted _
  · obtain ⟨hmask, hlisted⟩ := oneOpcodeRows_listed r hone
    rwa [eq_opMatch_of_acceptsOpcode hmask h]

theorem rowsFor_of_not_listed (hop : op ∉ listedOpcodes) : rowsFor c op = [] :=
  List.filter_eq_nil_iff.mpr fun _ hr h => hop (mem_listedOpcodes_of_acceptsOpcode hr h)

/-- Settles O48: no row of the map takes the opcode, so the decoder rejects it before any further fetch. -/
theorem unrecognizedOpcodeHalts : Obligations.UnrecognizedOpcodeHalts := by
  unfold Obligations.UnrecognizedOpcodeHalts
  intro s s1 op hf hop
  refine step_of_decode_error hf ?_
  rw [decodedAt, decodeFrom, rowsFor_of_not_listed hop]
  rfl

end Sys2Proof.Proofs
end

section
/-! PROOFS. Interrupt entries whose pushes do not fit (60_exceptions.md R201, R202, R212). -/

namespace Sys2Proof.Proofs

open Sys2Proof.Machine Sys2Proof.Claims

variable {s : State} {o : Word}

/-- The push that follows pushes of `k` bytes, which have left memory as `m`, where its word does not fit. -/
theorem push_lowered_of_not_fits (v : Word) {k : Word} (m : List Host.Cell) (h : ¬ Fits (below s (k + 2)) 2) :
    push o v { lowered s k with mem := m } =
      .error (haltedByMemory { lowered s (k + 2) with mem := m } (below s (k + 2)) o) := by
  rw [← below_lowered] at h ⊢
  rw [← lowered_lowered]
  exact push_of_not_fits v h

/-- The state in which the push of an entry at SP - `k` faults, the pushes before it having left memory as in `u`. -/
def entryHalted (s u : State) (k o : Word) : State := haltedByMemory { lowered s k with mem := u.mem } (below s k) o

theorem entryFaults_first (h2 : ¬ Fits (below s 2) 2) : EntryFaults s (entryHalted s s 2 o) 2 o :=
  ⟨by decide, h2, fun h => absurd rfl h, nofun, fun _ _ => rfl, rfl⟩

/-- FLAGS stored below SS:SP, as the first push of an entry leaves memory. -/
def flagsPushed (s : State) : State := (lowered s 2).setWord (below s 2) (packFlags s.flags)

/-- FLAGS and CS stored below SS:SP, as the first two pushes of an entry leave memory. -/
def csPushed (s : State) : State := (flagsPushed s).setWord (below s 4) s.segs.cs

theorem bytesKept_flagsPushed (s : State) : BytesKept (wordAddrs (below s 2)) s (flagsPushed s) :=
  have hl : BytesKept (wordAddrs (below s 2)) s (lowered s 2) := .refl
  hl.setWord (List.Subset.refl _) _

theorem bytesKept_csPushed (s : State) :
    BytesKept (wordAddrs (below s 2) ++ wordAddrs (below s 4)) s (csPushed s) :=
  have hl : BytesKept (wordAddrs (below s 2) ++ wordAddrs (below s 4)) s (lowered s 2) := .refl
  (hl.setWord (List.subset_append_left ..) _).setWord (List.subset_append_right ..) _

theorem wordAt_flagsPushed (s : State) : (flagsPushed s).wordAt (below s 2) = BitVec.ofNat 16 (packed s.flags) :=
  (State.wordAt_setWord_same ..).trans (packFlags_eq_ofNat s.flags)

theorem wordAt_csPushed (s : State) : (csPushed s).wordAt (below s 2) = BitVec.ofNat 16 (packed s.flags) ∧
    (csPushed s).wordAt (below s 4) = s.segs.cs :=
  have hapart : below s 2 + 1 < below s 4 ∨ below s 4 + 1 < below s 2 := below_words_apart (by decide) (by decide)
  ⟨(State.wordAt_setWord_other _ _ hapart).trans (wordAt_flagsPushed s), State.wordAt_setWord_same ..⟩

theorem entryFaults_second (h2 : Fits (below s 2) 2) (h4 : ¬ Fits (below s 4) 2) :
    EntryFaults s (entryHalted s (flagsPushed s) 4 o) 4 o :=
  ⟨by decide, h4, fun _ => ⟨h2, wordAt_flagsPushed s⟩, nofun, bytesKept_flagsPushed s, rfl⟩

theorem entryFaults_third (h2 : Fits (below s 2) 2) (h4 : Fits (below s 4) 2) (h6 : ¬ Fits (below s 6) 2) :
    EntryFaults s (entryHalted s (csPushed s) 6 o) 6 o :=
  have ⟨hflags, hcs⟩ := wordAt_csPushed s
  ⟨by decide, h6, fun _ => ⟨h2, hflags⟩, fun _ => ⟨h4, hcs⟩, bytesKept_csPushed s, rfl⟩

/-- An entry with a push that does not fit halts at the first such push. -/
theorem enterInterrupt_of_not_fits (n : Byte) (ret : Word)
    (h : ¬ (Fits (below s 2) 2 ∧ Fits (below s 4) 2 ∧ Fits (below s 6) 2)) :
    ∃ t k, enterInterrupt o n ret s = .error t ∧ EntryFaults s t k o := by
  by_cases h2 : Fits (below s 2) 2
  · by_cases h4 : Fits (below s 4) 2
    · have h6 : ¬ Fits (below s 6) 2 := fun h6 => h ⟨h2, h4, h6⟩
      exact ⟨_, 6, enterInterrupt_eq_error.mpr (.inr ⟨_, push_of_fits _ h2, .inr ⟨_,
        push_lowered_of_fits (k := 2) _ _ h4, push_lowered_of_not_fits (k := 4) _ _ h6⟩⟩), entryFaults_third h2 h4 h6⟩
    · exact ⟨_, 4, enterInterrupt_eq_error.mpr (.inr ⟨_, push_of_fits _ h2, .inl
        (push_lowered_of_not_fits (k := 2) _ _ h4)⟩), entryFaults_second h2 h4⟩
  · exact ⟨_, 2, enterInterrupt_eq_error.mpr (.inl (push_of_not_fits _ h2)), entryFaults_first h2⟩

/-- Settles O37: with IF = 1 the meaning of INT is the entry, which halts at its first push that does not fit. -/
theorem intFaultKeepsEarlierPushes : Obligations.IntFaultKeepsEarlierPushes := by
  unfold Obligations.IntFaultKeepsEarlierPushes
  intro n s hi h
  obtain ⟨t, k, he, hfaults⟩ := enterInterrupt_of_not_fits (o := s.opip) n (s.opip + 2) h
  exact ⟨t, k, (if_pos hi).trans (congrArg finish he), hfaults⟩

end Sys2Proof.Proofs
end

section
/-! PROOFS. The interrupt service (60_exceptions.md R208, R211). -/

namespace Sys2Proof.Proofs

open Sys2Proof.Machine Sys2Proof.Claims

variable {s s1 t : State} {n : Byte} {ret : Word} {irr : Byte}

/-! ## The poll, and whether IRQ1 is taken -/

theorem pollKeyboard_eq_polled (s : State) : pollKeyboard s = polled s := pollKeyboard_eq s

/-- The poll changes IRR and the keyboard status only. -/
theorem polled_eq (s : State) : polled s =
    { s with pic := { s.pic with irr := (polled s).pic.irr }, kbd := (polled s).kbd } := by
  unfold polled
  split <;> rfl

theorem polled_ip (s : State) : (polled s).ip = s.ip := by rw [polled_eq]

theorem polled_flags (s : State) : (polled s).flags = s.flags := by rw [polled_eq]

theorem polled_imr (s : State) : (polled s).pic.imr = s.pic.imr := by rw [polled_eq]

theorem below_polled (s : State) (k : Word) : below (polled s) k = below s k := by
  rw [polled_eq]
  rfl

theorem polled_irr_bit (s : State) :
    (polled s).pic.irr.getLsbD 1 = true ↔ s.pic.irr.getLsbD 1 = true ∨ s.kbd.head ≠ s.kbd.tail := by
  unfold polled
  split
  · next hempty => simp [hempty]
  · next hkey => simp [hkey]

/-- Masking with bit 1 tests it. -/
theorem and_irq1_bne_zero (b : Byte) : (b &&& irq1 != 0) = b.getLsbD 1 := by
  revert b
  decide

theorem irq1Taken_iff : irq1Taken s = true ↔
    s.flags.interrupt = true ∧ s.pic.irr.getLsbD 1 = true ∧ s.pic.imr.getLsbD 1 = false := by
  rw [irq1Taken, and_irq1_bne_zero]
  simp

theorem irq1Taken_polled_iff : irq1Taken (polled s) = true ↔ TakesIrq1 s := by
  rw [irq1Taken_iff, polled_irr_bit, polled_flags, polled_imr, TakesIrq1]

/-! ## The service (R211) -/

theorem serviceInterrupts_of_not_takesIrq1 (h : ¬ TakesIrq1 s) : serviceInterrupts s = .ok (polled s) := by
  rw [← irq1Taken_polled_iff, Bool.not_eq_true, ← pollKeyboard_eq_polled] at h
  exact serviceInterrupts_eq_ok.mpr (.inl ⟨h, pollKeyboard_eq_polled s⟩)

/-- Where IRQ1 is taken the service is the entry of vector 9, then IRR bit 1 is cleared. -/
theorem serviceInterrupts_of_takesIrq1 (h : TakesIrq1 s) : serviceInterrupts s =
    (enterInterrupt s.ip 9 s.ip (polled s) >>= fun u => .ok (u.setPic { u.pic with irr := u.pic.irr &&& ~~~irq1 })) := by
  have htaken : irq1Taken (polled s) = true := irq1Taken_polled_iff.mpr h
  simp only [serviceInterrupts, pollKeyboard_eq_polled, htaken, if_true, polled_ip]

/-- IRR, which an entry leaves alone, is cleared after it. -/
theorem enters_setIrr (h : Enters s t n ret irr) (x : Byte) : Enters s (t.setPic { t.pic with irr := x }) n ret x := by
  obtain ⟨hflags, hcs, hret, hkept, ht⟩ := h
  exact ⟨hflags, hcs, hret, hkept, congrArg (fun t : State => t.setPic { t.pic with irr := x }) ht⟩

/-- An entry that faults keeps the PIC and the flags. -/
theorem pic_flags_of_entryFaults {k o : Word} (h : EntryFaults s t k o) : t.pic = s.pic ∧ t.flags = s.flags := by
  obtain ⟨-, -, -, -, -, ht⟩ := h
  rw [ht]
  exact ⟨rfl, rfl⟩

/-- Settles O54: the poll decides whether IRQ1 is taken, and the entry whether a push faults. -/
theorem interruptServiceEntersVectorNine : Obligations.InterruptServiceEntersVectorNine := by
  unfold Obligations.InterruptServiceEntersVectorNine
  refine ⟨fun s => serviceInterrupts_of_not_takesIrq1, fun s h h2 h4 h6 => ?_, fun s hrun h hpush => ?_⟩
  · simp only [← below_polled s] at h2 h4 h6
    exact ⟨_, (serviceInterrupts_of_takesIrq1 h).trans (bind_of_ok (enterInterrupt_of_fits 9 s.ip h2 h4 h6)),
      enters_setIrr (enters_entered (polled s) 9 s.ip) _⟩
  · simp only [← below_polled s] at hpush
    obtain ⟨t, k, he, hfaults⟩ := enterInterrupt_of_not_fits (o := s.ip) 9 s.ip hpush
    obtain ⟨hpic, hflags⟩ := pic_flags_of_entryFaults hfaults
    obtain ⟨hif, hirr, -⟩ := irq1Taken_iff.mp (irq1Taken_polled_iff.mpr h)
    have hservice := (serviceInterrupts_of_takesIrq1 h).trans (bind_of_error he)
    exact ⟨t, k, step_eq_next.mpr (.inr ⟨hrun, .inl hservice⟩), hfaults, by rw [hpic, hirr], by rw [hflags, hif]⟩

/-! ## INT as the handler's first instruction (R190, R208) -/

theorem Entered.interrupt (h : Entered s t) : t.flags.interrupt = false := by
  obtain ⟨u, ip, cs, -, rfl⟩ := h
  rfl

/-- A service that takes IRQ1 ends with IF = 0. -/
theorem interrupt_of_serviceInterrupts (h : TakesIrq1 s) (hs : serviceInterrupts s = .ok s1) :
    s1.flags.interrupt = false := by
  rw [serviceInterrupts_of_takesIrq1 h] at hs
  obtain ⟨u, hu, he⟩ := bind_eq_ok.mp hs
  cases he
  exact ((ends_iff.mp (ends_enterInterrupt ..)).1 u hu).interrupt

/-- Settles O55: the step runs INT after the service, which has cleared IF. -/
theorem intRightAfterVectorNineIsSkipped : Obligations.IntRightAfterVectorNineIsSkipped := by
  unfold Obligations.IntRightAfterVectorNineIsSkipped
  intro s s1 n hrun htakes hservice hcode
  obtain ⟨-, hskip⟩ := intEntersItsVectorOrIsSkipped
  have hif := interrupt_of_serviceInterrupts htakes hservice
  have hstep := stepRunsTheInstructionAtCsIp s s1 (.intImm8 n) 0xCD hrun hservice rfl hcode rfl
  rw [hstep]
  refine (hskip n (s1.afterOpcode 0xCD) hif).trans ?_
  rw [State.afterOpcode_opip]
  rfl

end Sys2Proof.Proofs
end

section
/-! PROOFS. The PIC and the keyboard queue over every instruction (60_exceptions.md R216, R224, R227). -/

namespace Sys2Proof.Proofs

open Sys2Proof.Machine Sys2Proof.Claims

variable {i : Instr} {s t u : State} {o : Word} {p v : Byte}

/-- From `s` to `t` nothing of the PIC and the keyboard queue has changed that the instruction `i` may not write. -/
structure DevicesKept (i : Instr) (s t : State) : Prop where
  irr  : t.pic.irr = s.pic.irr
  imr  : i ∉ [Instr.outImm8Al 0x21, .outImm8Ax 0x21] → t.pic.imr = s.pic.imr
  isr  : (∀ n, i ≠ .intImm8 n) → i ∉ [Instr.iret, .outImm8Al 0x20, .outImm8Ax 0x20] → t.pic.isr = s.pic.isr
  kbd  : i ∉ [Instr.inAlImm8 0x60, .inAxImm8 0x60] → t.kbd = s.kbd
  buf  : t.kbd.buf = s.kbd.buf
  tail : t.kbd.tail = s.kbd.tail

theorem devicesKept_of_eq (hpic : t.pic = s.pic) (hkbd : t.kbd = s.kbd) : DevicesKept i s t :=
  ⟨by rw [hpic], fun _ => by rw [hpic], fun _ _ => by rw [hpic], fun _ => hkbd, by rw [hkbd], by rw [hkbd]⟩

theorem RegsMemOnly.kbd (h : RegsMemOnly s t) : t.kbd = s.kbd := by rw [h.eq]

theorem MemoryFaulted.devices (h : MemoryFaulted o s t) : DevicesKept i s t := by
  obtain ⟨u, a, hu, -, rfl⟩ := h
  exact devicesKept_of_eq hu.pic hu.kbd

/-- An update of anything but the PIC and the queue keeps what was kept. -/
theorem DevicesKept.of_eq (h : DevicesKept i s u) (hpic : t.pic = u.pic) (hkbd : t.kbd = u.kbd) :
    DevicesKept i s t := by
  obtain ⟨irr, imr, isr, kbd, buf, tail⟩ := h
  rw [← hpic] at irr imr isr
  rw [← hkbd] at kbd buf tail
  exact ⟨irr, imr, isr, kbd, buf, tail⟩

theorem Entered.devices {n : Byte} (h : Entered s t) : DevicesKept (.intImm8 n) s t := by
  obtain ⟨u, ip, cs, hu, rfl⟩ := h
  exact ⟨rfl, fun _ => rfl, fun hn => absurd rfl (hn n), fun _ => hu.kbd, congrArg _ hu.kbd, congrArg _ hu.kbd⟩

theorem Returned.devices (h : Returned s t) : DevicesKept .iret s t := by
  obtain ⟨u, ip, cs, f, hu, rfl⟩ := h
  exact ⟨rfl, fun _ => rfl, fun _ hi => absurd (.head _) hi, fun _ => hu.kbd, congrArg _ hu.kbd, congrArg _ hu.kbd⟩

/-! ## The ports (R226, R227) -/

theorem queueAfterRead_of_ne (h : p ≠ 0x60) : queueAfterRead s p = s.kbd := if_neg fun hp => h hp.1

theorem queueAfterRead_buf_tail (s : State) (p : Byte) :
    (queueAfterRead s p).buf = s.kbd.buf ∧ (queueAfterRead s p).tail = s.kbd.tail := by
  unfold queueAfterRead
  split <;> exact ⟨rfl, rfl⟩

theorem picAfterWrite_irr (s : State) (p v : Byte) : (picAfterWrite s p v).irr = s.pic.irr := by
  unfold picAfterWrite
  split
  · rfl
  · split <;> rfl

theorem picAfterWrite_imr_of_ne (h : p ≠ 0x21) : (picAfterWrite s p v).imr = s.pic.imr := by
  rw [picAfterWrite, if_neg h]
  split <;> rfl

theorem picAfterWrite_isr_of_ne (h : p ≠ 0x20) : (picAfterWrite s p v).isr = s.pic.isr := by
  rw [picAfterWrite, if_neg (c := p = 0x20 ∧ v = 0x20) fun hp => h hp.1]
  split <;> rfl

/-- A port read stays within what `i` may write if `i` may pop the queue or the port is not 0x60 (R224). -/
theorem devicesKept_of_portRead (hp : i ∉ [Instr.inAlImm8 0x60, .inAxImm8 0x60] → p ≠ 0x60) :
    DevicesKept i s (portRead p s).2 := by
  rw [portRead_eq]
  obtain ⟨hbuf, htail⟩ := queueAfterRead_buf_tail s p
  exact ⟨rfl, fun _ => rfl, fun _ _ => rfl, fun hi => queueAfterRead_of_ne (hp hi), hbuf, htail⟩

/-- A port write stays within what `i` may write if `i` may write IMR or the port is not 0x21, and ISR or the port is not
0x20 (R227). -/
theorem devicesKept_of_portWrite (himr : i ∉ [Instr.outImm8Al 0x21, .outImm8Ax 0x21] → p ≠ 0x21)
    (hisr : i ∉ [Instr.iret, .outImm8Al 0x20, .outImm8Ax 0x20] → p ≠ 0x20) :
    DevicesKept i s (portWrite p v s) := by
  rw [portWrite_eq]
  exact ⟨picAfterWrite_irr s p v, fun hi => picAfterWrite_imr_of_ne (himr hi),
    fun _ hi => picAfterWrite_isr_of_ne (hisr hi), fun _ => rfl, rfl, rfl⟩

/-! ## The meanings -/

theorem finish_devices {r : Except State State} (h : finish r = .next t)
    (hr : Ends (DevicesKept i s) (MemoryFaulted s.opip s) r) : DevicesKept i s t := by
  rcases finish_eq_next.mp h with rfl | rfl
  · exact hr
  · exact hr.devices

/-- An instruction that ends, completed or faulting, keeps the device state its rule does not write. -/
theorem exec_devicesKept (h : exec i s = .next t) : DevicesKept i s t := by
  cases i with
  -- no access
  | movR8Imm8 r _ => cases h; exact devicesKept_of_eq (by cases r <;> rfl) (by cases r <;> rfl)
  | movR16Imm16 _ _ | movDsAx | movEsAx | movSsAx | addAxBx | addAxImm16 _ | subAxBx | subAxImm16 _ | cmpAxBx
  | cmpAlImm8 _ | cmpAxImm8 _ _ | jc _ | jnc _ | je _ | jne _ | ja _ | jmpRel16 _ | jmpRel8 _ | xorAxAx | xorBxBx
  | mulAl | cli | sti | hlt => cases h; exact devicesKept_of_eq rfl rfl
  -- a byte or a word is read
  | movAlA16 _ | lodsb | mulByteBx =>
    exact finish_devices h ((ends_read8 _).bind fun _ _ => devicesKept_of_eq rfl rfl)
  | movAxD16 _ | movAxA16 _ | addAxD16 _ | addAxSi | subAxD16 _ | cmpAxD16 _ =>
    exact finish_devices h ((ends_read16 _).bind fun _ _ => devicesKept_of_eq rfl rfl)
  -- a byte or a word is written
  | movByteD16Imm8 _ _ | stosb =>
    exact finish_devices h ((ends_write8 _ _).bind fun _ hu => devicesKept_of_eq hu.pic hu.kbd)
  | movD16Ax _ | movWordD16Imm16 _ _ | movWordSiImm16 _ =>
    exact finish_devices h ((ends_write16 _ _).bind fun _ hu => devicesKept_of_eq hu.pic hu.kbd)
  -- read, then written
  | addD16Ax _ =>
    exact finish_devices h ((ends_read16 _).bind fun _ _ => (ends_write16 _ _).bind fun _ hu =>
      devicesKept_of_eq hu.pic hu.kbd)
  | incByteD16 _ | decByteD16 _ =>
    exact finish_devices h ((ends_read8 _).bind fun _ _ => (ends_write8 _ _).bind fun _ hu =>
      devicesKept_of_eq hu.pic hu.kbd)
  -- the stack
  | pushAx | pushCs | callRel16 _ =>
    exact finish_devices h ((ends_push _).bind fun _ hu => devicesKept_of_eq hu.pic hu.kbd)
  | popAx | popDs | popEs | ret =>
    exact finish_devices h (ends_pop.bind fun _ hu => devicesKept_of_eq hu.pic hu.kbd)
  -- ports
  | inAlImm8 p | inAxImm8 p =>
    cases h
    exact (devicesKept_of_portRead (by simp)).of_eq rfl rfl
  | outImm8Al p | outImm8Ax p =>
    cases h
    exact (devicesKept_of_portWrite (p := p) (by simp) (by simp)).of_eq rfl rfl
  -- interrupts
  | intImm8 n =>
    by_cases hi : s.flags.interrupt = true
    · simp only [exec, execIntImm8, if_pos hi] at h
      exact finish_devices h ((ends_enterInterrupt ..).imp_ok fun _ => Entered.devices)
    · simp only [exec, execIntImm8, if_neg hi] at h
      cases h
      exact devicesKept_of_eq rfl rfl
  | iret => exact finish_devices h (ends_interruptReturn.imp_ok fun _ => Returned.devices)

/-- Settles O42, from what each shared operation leaves of the PIC and the queue. -/
theorem deviceFrame : Obligations.DeviceFrame := by
  unfold Obligations.DeviceFrame
  intro i s t h
  obtain ⟨irr, imr, isr, kbd, buf, tail⟩ := exec_devicesKept h
  exact ⟨irr, imr, isr, kbd, buf, tail⟩

end Sys2Proof.Proofs
end

section
/-! PROOFS. A ModRM byte that its opcode does not accept (30_encoding.md R83, R84, 60_exceptions.md R204). -/

namespace Sys2Proof.Proofs

open Sys2Proof.Machine Sys2Proof.Claims

variable {c : Config} {op m : Byte} {r : Row}

/-- The rows of an opcode whose values no parameter selects take the listed values, one each. -/
theorem modrm_rowsFor_of_listedModrm : ∀ p ∈ listedModrm,
    (rowsFor c p.1).map (·.modrm) = p.2.map fun v => some (.exactly v) := by
  obtain ⟨p, b, q, j, mode, k, v⟩ := c
  cases mode <;> exact List.map_inj_left.mp rfl

theorem modrmOpcodes_cases : ∀ op ∈ modrmOpcodes, op = 0x83 ∨ op = 0xF6 ∨
    op ≠ 0x83 ∧ op ≠ 0xF6 ∧ ∃ p ∈ listedModrm, p.1 = op := by decide

/-- Every ModRM byte that a row of the map takes for an opcode is one that the opcode accepts (R84, R131, R174). -/
theorem acceptsModrm_of_mem_rowsFor (hop : op ∈ modrmOpcodes) (hr : r ∈ rowsFor c op)
    (h : r.acceptsModrm c m = true) : Claims.acceptsModrm c op m = true := by
  rcases modrmOpcodes_cases op hop with rfl | rfl | ⟨h83, hF6, p, hp, rfl⟩
  · rw [rowsFor_cmp83, List.mem_singleton] at hr
    subst hr
    simpa [Claims.acceptsModrm, Row.acceptsModrm, modrmMatches] using h
  · rw [rowsFor_mul] at hr
    simp only [Claims.acceptsModrm]
    cases hmode : c.mulF6Mode with
    | byModrm =>
      have hm : m = 0xE0 ∨ m = 0x27 := by
        rw [hmode, mulRows, List.mem_pair] at hr
        rcases hr with rfl | rfl
        · exact .inl (beq_iff_eq.mp h)
        · exact .inr (beq_iff_eq.mp h)
      simpa using hm
    | variantAlAl | variantAlMemBx => rfl
  · obtain ⟨v, hv, hrow⟩ : ∃ v ∈ p.2, some (.exactly v) = r.modrm := by
      have hmem := List.mem_map_of_mem (f := (·.modrm)) hr
      rw [modrm_rowsFor_of_listedModrm p hp] at hmem
      exact List.mem_map.mp hmem
    have hm : m = v := by simpa [Row.acceptsModrm, ← hrow] using h
    rw [Claims.acceptsModrm, if_neg h83, if_neg hF6]
    exact List.any_eq_true.mpr ⟨p, hp, by simp [hm, hv]⟩

/-- The decoder rejects a ModRM byte that no row of its opcode takes, before any further field (R82, R83). -/
theorem decodeFrom_of_modrm_rejected {ε : Type} {f8 : Nat → Except ε Byte} {f16 : Nat → Except ε Word}
    {reject : DecodeError → ε} (hop : op ∈ modrmOpcodes) (h1 : f8 1 = .ok m)
    (hnone : ∀ r ∈ rowsFor c op, ¬ r.acceptsModrm c m = true) :
    decodeFrom c f8 f16 reject op = .error (reject (.unsupportedEncoding m)) := by
  have hhead := rowsFor_of_modrmOpcodes (c := c) op hop
  have hfind := List.find?_eq_none.mpr hnone
  unfold decodeFrom
  cases hrows : rowsFor c op with
  | nil => simp [hrows] at hhead
  | cons row rest =>
    simp only [hrows, List.head?_cons, Option.map_some, Option.some.injEq] at hhead
    obtain ⟨rule, hrule⟩ := Option.isSome_iff_exists.mp hhead
    rw [hrows] at hfind
    simp only [hrule]
    refine (bind_of_ok h1).trans ?_
    rw [hfind]

/-- Settles O49: no row of the opcode takes the ModRM byte, so the decoder rejects it right after its fetch. -/
theorem unsupportedModrmHalts : Obligations.UnsupportedModrmHalts := by
  unfold Obligations.UnsupportedModrmHalts
  intro s s1 op m hf hop hm hacc
  refine step_of_decode_error hf (decodeFrom_of_modrm_rejected hop (fetch8_of_fetchesModrm hm) fun r hr h => ?_)
  obtain ⟨-, hservice, -⟩ := hf
  have haccepted := acceptsModrm_of_mem_rowsFor hop hr h
  rw [serviceInterrupts_cfg hservice, hacc] at haccepted
  cases haccepted

end Sys2Proof.Proofs
end

section
/-! PROOFS. Data operands outside memory (60_exceptions.md R202, R203), and the answer of every step (R80, R200). -/

namespace Sys2Proof.Proofs

open Sys2Proof.Machine Sys2Proof.Claims

/-- Settles O35: the first access of each form is its operand, and where that does not fit it ends the meaning. -/
theorem dataOperandOutsideMemoryHalts : Obligations.DataOperandOutsideMemoryHalts := by
  unfold Obligations.DataOperandOutsideMemoryHalts
  simp only [List.forall_mem_cons]
  refine ⟨fun d s h => ?_, fun d imm s h => ?_, fun d s h => ?_, fun d imm s h => ?_, fun imm s h => ?_,
    fun s h => ?_, fun s h => ?_, fun s h => ?_⟩
  · have hr := read16_of_not_fits (o := s.opip) (s := s) h
    exact ⟨finish_of_error (write16_of_not_fits _ h), finish_of_error hr, finish_of_error hr, finish_of_error hr,
      finish_of_error hr, finish_of_error hr, finish_of_error hr, nofun⟩
  · exact finish_of_error (write16_of_not_fits _ h)
  · have hr := read8_of_not_fits (o := s.opip) (s := s) h
    exact ⟨finish_of_error hr, finish_of_error hr, finish_of_error hr, nofun⟩
  · exact finish_of_error (write8_of_not_fits _ h)
  · exact ⟨finish_of_error (write16_of_not_fits _ h), finish_of_error (read16_of_not_fits h), nofun⟩
  · exact finish_of_error (read8_of_not_fits h)
  · exact finish_of_error (read8_of_not_fits h)
  · exact finish_of_error (write8_of_not_fits _ h)

/-! ## Every step answers -/

theorem exists_finish_eq_next (r : Except State State) : ∃ t, finish r = .next t := by
  cases r with
  | ok t => exact ⟨t, rfl⟩
  | error t => exact ⟨t, rfl⟩

/-- Every instruction has a meaning, which ends in a next state. -/
theorem exists_exec_eq_next (i : Instr) (s : State) : ∃ t, exec i s = .next t := by
  cases i with
  -- no access, no fault
  | movR8Imm8 | movR16Imm16 | movDsAx | movEsAx | movSsAx | addAxBx | addAxImm16 | subAxBx | subAxImm16 | cmpAxBx
  | cmpAlImm8 | cmpAxImm8 | jc | jnc | je | jne | ja | jmpRel16 | jmpRel8 | xorAxAx | xorBxBx | mulAl
  | inAlImm8 | inAxImm8 | outImm8Al | outImm8Ax | cli | sti | hlt => exact ⟨_, rfl⟩
  -- memory or the stack
  | movD16Ax | movAxD16 | movAlA16 | movAxA16 | movByteD16Imm8 | movWordD16Imm16 | movWordSiImm16 | addD16Ax
  | addAxD16 | addAxSi | subAxD16 | cmpAxD16 | callRel16 | ret | pushAx | popAx | pushCs | popDs | popEs | lodsb
  | stosb | incByteD16 | decByteD16 | mulByteBx | iret => exact exists_finish_eq_next _
  | intImm8 n =>
    by_cases hi : s.flags.interrupt = true
    · obtain ⟨t, ht⟩ := exists_finish_eq_next (enterInterrupt s.opip n (s.opip + 2) s)
      exact ⟨t, (if_pos hi).trans ht⟩
    · exact ⟨_, if_neg hi⟩

/-- Settles O51: the service and the fetch end in a Halted state or lead on to a meaning, which answers. -/
theorem everyStepAnswersANextState : Obligations.EveryStepAnswersANextState := by
  unfold Obligations.EveryStepAnswersANextState
  intro s
  cases hrun : s.running with
  | false => exact ⟨s, step_of_halted hrun⟩
  | true =>
    cases hservice : serviceInterrupts s with
    | error h => exact ⟨h, step_eq_next.mpr (.inr ⟨hrun, .inl hservice⟩)⟩
    | ok s1 =>
      cases hfetch : fetch s1 with
      | error h => exact ⟨h, step_of_fetch_error hrun hservice hfetch⟩
      | ok p =>
        obtain ⟨t, ht⟩ := exists_exec_eq_next p.1 p.2
        exact ⟨t, step_eq_next.mpr (.inr ⟨hrun, .inr ⟨s1, hservice, .inr ⟨p.1, p.2, hfetch, ht⟩⟩⟩)⟩

end Sys2Proof.Proofs
end

section
/-! PROOFS. `enqueue` (60_exceptions.md R222). -/

namespace Sys2Proof.Proofs

open Sys2Proof.Machine Sys2Proof.Claims

/-- The queue that `enqueue` writes its byte to: with DROP_OLDEST the head of a full queue has advanced (R222). -/
def roomMade (mode : KbdOverflow) (k : Keyboard) : Keyboard :=
  match mode with
  | .naiveTail => k
  | .dropOldest => if k.tail + 1 = k.head then { k with head := k.head + 1 } else k

theorem enqueue_eq_roomMade (mode : KbdOverflow) (b : Byte) (k : Keyboard) : k.enqueue mode b =
    { (roomMade mode k).setSlot k.tail b with tail := k.tail + 1 } := by
  cases mode with
  | naiveTail => rfl
  | dropOldest =>
    simp only [Keyboard.enqueue, roomMade, Keyboard.isFull, beq_iff_eq]
    split <;> rfl

/-- Making room moves the head only. -/
theorem roomMade_eq (mode : KbdOverflow) (k : Keyboard) : roomMade mode k = { k with head := (roomMade mode k).head } := by
  cases mode with
  | naiveTail => rfl
  | dropOldest =>
    simp only [roomMade]
    split <;> rfl

theorem slot_roomMade (mode : KbdOverflow) (k : Keyboard) (i : Byte) : (roomMade mode k).slot i = k.slot i := by
  rw [roomMade_eq]
  rfl

theorem status_roomMade (mode : KbdOverflow) (k : Keyboard) : (roomMade mode k).status = k.status := by
  rw [roomMade_eq]

/-- The slots after `enqueue`. -/
theorem slot_enqueue (mode : KbdOverflow) (b : Byte) (k : Keyboard) (i : Byte) :
    (k.enqueue mode b).slot i = if i = k.tail then b else k.slot i := by
  rw [enqueue_eq_roomMade, ← slot_roomMade mode k i]
  exact Keyboard.slot_setSlot ..

/-- Settles O29, field by field of the queue. -/
theorem enqueueWritesAtTheTail : Obligations.EnqueueWritesAtTheTail := by
  unfold Obligations.EnqueueWritesAtTheTail
  intro b s
  have hk : (enqueue b s).kbd = _ := enqueue_eq_roomMade s.cfg.kbdOverflow b s.kbd
  have hslot (i : Byte) : (enqueue b s).kbd.slot i = if i = s.kbd.tail then b else s.kbd.slot i :=
    slot_enqueue s.cfg.kbdOverflow b s.kbd i
  refine ⟨by rw [hslot, if_pos rfl], fun i hi => by rw [hslot, if_neg hi], by rw [hk], ?_, ?_, rfl⟩
  · rw [hk]
    show (roomMade s.cfg.kbdOverflow s.kbd).head = _
    cases s.cfg.kbdOverflow with
    | naiveTail => rfl
    | dropOldest => exact apply_ite Keyboard.head ..
  · rw [hk]
    exact status_roomMade ..

end Sys2Proof.Proofs
end

section
/-! PROOFS. The firmware load (70_reset_and_hazards.md R243). -/

namespace Sys2Proof.Proofs

open Sys2Proof.Machine Sys2Proof.Claims

variable {s : State} {a : Nat} {bs blob : List Byte}

/-- Stored bytes leave every address before and behind them alone. -/
theorem byteAt_storeBytes_outside {x : Nat} (hx : x < a ∨ a + bs.length ≤ x) :
    (storeBytes a bs s).byteAt x = s.byteAt x := by
  induction bs generalizing a s with
  | nil => rfl
  | cons b bs ih =>
    rw [List.length_cons] at hx
    have hne : x ≠ a := by omega
    calc (storeBytes (a + 1) bs (s.setByte a b)).byteAt x
        = (s.setByte a b).byteAt x := ih (by omega)
      _ = s.byteAt x := by rw [State.byteAt_setByte, if_neg hne]

/-- The byte at index `k` lies `k` addresses behind the first one: the stores after it are above it. -/
theorem byteAt_storeBytes_add {k : Nat} {b : Byte} (hk : bs[k]? = some b) :
    (storeBytes a bs s).byteAt (a + k) = b := by
  induction bs generalizing a s k with
  | nil => cases hk
  | cons c bs ih =>
    cases k with
    | zero =>
      cases hk
      exact (byteAt_storeBytes_outside (.inl a.lt_succ_self)).trans (State.byteAt_setByte_same ..)
    | succ k =>
      rw [show a + (k + 1) = a + 1 + k by omega]
      exact ih hk

theorem storeBytes_eq_mem (a : Nat) (bs : List Byte) (s : State) :
    storeBytes a bs s = { s with mem := (storeBytes a bs s).mem } := by
  induction bs generalizing a s with
  | nil => rfl
  | cons b bs ih => exact ih (a + 1) (s.setByte a b)

theorem regsMemOnly_storeBytes (hb : a + bs.length ≤ 0x100000) : RegsMemOnly s (storeBytes a bs s) := by
  have heq := storeBytes_eq_mem a bs s
  have hwf := storeBytes_wf (s := s) hb
  rw [heq] at hwf ⊢
  exact ⟨rfl, hwf⟩

/-- Settles O60: a load is a store of the blob's bytes, which end at 0x100000 at the latest. -/
theorem firmwareLoadCopiesTheBlob : Obligations.FirmwareLoadCopiesTheBlob := by
  unfold Obligations.FirmwareLoadCopiesTheBlob
  refine ⟨fun blob s hlen => ?_, fun blob s hlen => if_neg (Nat.not_le.mpr hlen)⟩
  have hload : loadFirmware blob s = storeBytes 0x100 blob s := if_pos hlen
  have hfits : 0x100 + blob.length ≤ 0x100000 := by omega
  rw [hload]
  exact ⟨fun _ _ => byteAt_storeBytes_add, fun _ => byteAt_storeBytes_outside, storeBytes_eq_mem 0x100 blob s,
    (regsMemOnly_storeBytes hfits).inv⟩

end Sys2Proof.Proofs
end

section
/-! PROOFS. The general registers each instruction leaves unchanged (10_state.md R20, R22, 20_memory.md R57, R58). -/

namespace Sys2Proof.Proofs

open Sys2Proof.Machine Sys2Proof.Claims

variable {i : Instr} {s t u : State} {o : Word} {rs : List Reg16}

/-- From `s` to `t` every general register outside `rs` is unchanged. -/
def RegsKept (rs : List Reg16) (s t : State) : Prop := ∀ r, r ∉ rs → t.reg r = s.reg r

/-- `x` ends, completed or faulting, with every general register outside `rs` as in `s`. -/
abbrev EndsRegsKept (rs : List Reg16) (s : State) : Except State State → Prop := Ends (RegsKept rs s) (RegsKept rs s)

theorem RegsKept.refl : RegsKept rs s s := fun _ _ => rfl

theorem RegsKept.setReg (h : RegsKept rs s u) {r : Reg16} (hr : r ∈ rs) (v : Word) : RegsKept rs s (u.setReg r v) := by
  intro q hq
  have hne : q ≠ r := fun e => hq (e ▸ hr)
  rw [State.reg_setReg, if_neg hne, h q hq]

/-! ## Accesses and the stack, from a state `u` that a meaning has reached -/

theorem regsKept_read8 (h : RegsKept rs s u) (a : Nat) : Ends (fun _ => True) (RegsKept rs s) (read8 o a u) :=
  ends_iff.mpr ⟨fun _ _ => trivial, fun _ he => (read8_eq_error.mp he).2 ▸ h⟩

theorem regsKept_read16 (h : RegsKept rs s u) (a : Nat) : Ends (fun _ => True) (RegsKept rs s) (read16 o a u) :=
  ends_iff.mpr ⟨fun _ _ => trivial, fun _ he => (read16_eq_error.mp he).2 ▸ h⟩

theorem regsKept_write8 (h : RegsKept rs s u) (a : Nat) (v : Byte) : EndsRegsKept rs s (write8 o a v u) :=
  ends_iff.mpr ⟨fun _ ht => (write8_eq_ok.mp ht).2 ▸ h, fun _ he => (write8_eq_error.mp he).2 ▸ h⟩

theorem regsKept_write16 (h : RegsKept rs s u) (a : Nat) (v : Word) : EndsRegsKept rs s (write16 o a v u) :=
  ends_iff.mpr ⟨fun _ ht => (write16_eq_ok.mp ht).2 ▸ h, fun _ he => (write16_eq_error.mp he).2 ▸ h⟩

/-- A push moves SP, also where it faults (R57). -/
theorem regsKept_push (h : RegsKept rs s u) (hsp : .sp ∈ rs) (v : Word) : EndsRegsKept rs s (push o v u) :=
  regsKept_write16 (h.setReg hsp _) _ v

/-- A pop moves SP after its read; one that faults moves no register (R58). -/
theorem regsKept_pop (h : RegsKept rs s u) (hsp : .sp ∈ rs) :
    Ends (fun p => RegsKept rs s p.2) (RegsKept rs s) (pop o u) :=
  (regsKept_read16 h _).bind fun _ _ => h.setReg hsp _

theorem regsKept_enterInterrupt (n : Byte) (ret : Word) : EndsRegsKept [.sp] s (enterInterrupt o n ret s) :=
  have hsp := List.mem_singleton_self Reg16.sp
  (regsKept_push .refl hsp _).bind fun _ h1 => (regsKept_push h1 hsp _).bind fun _ h2 =>
    (regsKept_push h2 hsp _).bind fun _ h3 => (regsKept_read16 h3 _).bind fun _ _ =>
      (regsKept_read16 h3 _).bind fun _ _ => h3

theorem regsKept_interruptReturn : EndsRegsKept [.sp] s (interruptReturn o s) :=
  have hsp := List.mem_singleton_self Reg16.sp
  (regsKept_pop .refl hsp).bind fun _ h1 => (regsKept_pop h1 hsp).bind fun _ h2 =>
    (regsKept_pop h2 hsp).bind fun _ h3 => h3

/-! ## The meanings -/

theorem finish_regsKept {x : Except State State} (h : finish x = .next t) (hx : EndsRegsKept rs s x) :
    RegsKept rs s t := by
  rcases finish_eq_next.mp h with rfl | rfl
  · exact hx
  · exact hx

theorem regsKept_portRead (p : Byte) : RegsKept rs s (portRead p s).2 := by
  rw [portRead_state]
  exact .refl

theorem regsKept_portWrite (p v : Byte) : RegsKept rs s (portWrite p v s) := by
  obtain ⟨isr, imr, e⟩ := portWrite_state p v s
  rw [e]
  exact .refl

/-- An instruction that ends, completed or faulting, keeps the general registers its rule does not write. -/
theorem exec_regsKept (h : exec i s = .next t) : RegsKept (writes s i).regs s t := by
  cases i with
  -- no access, no register
  | movDsAx | movEsAx | movSsAx | cmpAxBx | cmpAlImm8 _ | cmpAxImm8 _ _ | jc _ | jnc _ | je _ | jne _ | ja _
  | jmpRel16 _ | jmpRel8 _ | cli | sti | hlt => cases h; exact .refl
  -- no access, one register
  | movR8Imm8 r imm =>
    cases h
    exact fun q hq => reg_setReg8_of_ne_wholeOf imm (List.ne_of_not_mem_cons hq)
  | movR16Imm16 r imm => cases h; exact RegsKept.refl.setReg (.head _) imm
  | addAxBx | addAxImm16 _ | subAxBx | subAxImm16 _ | xorAxAx | mulAl =>
    cases h
    exact RegsKept.refl.setReg (r := .ax) (.head _) _
  | xorBxBx => cases h; exact RegsKept.refl.setReg (r := .bx) (.head _) _
  -- a byte or a word is read
  | movAlA16 _ | mulByteBx =>
    exact finish_regsKept h ((regsKept_read8 .refl _).bind fun _ _ => RegsKept.refl.setReg (r := .ax) (.head _) _)
  | lodsb =>
    exact finish_regsKept h ((regsKept_read8 .refl _).bind fun _ _ =>
      (RegsKept.refl.setReg (r := .ax) (.head _) _).setReg (r := .si) (.tail _ (.head _)) _)
  | movAxD16 _ | movAxA16 _ | addAxD16 _ | addAxSi | subAxD16 _ =>
    exact finish_regsKept h ((regsKept_read16 .refl _).bind fun _ _ => RegsKept.refl.setReg (r := .ax) (.head _) _)
  | cmpAxD16 _ => exact finish_regsKept h ((regsKept_read16 .refl _).bind fun _ _ => .refl)
  -- a byte or a word is written
  | movByteD16Imm8 _ _ => exact finish_regsKept h ((regsKept_write8 .refl _ _).bind fun _ hu => hu)
  | stosb =>
    exact finish_regsKept h ((regsKept_write8 .refl _ _).bind fun _ hu => hu.setReg (r := .di) (.head _) _)
  | movD16Ax _ | movWordD16Imm16 _ _ | movWordSiImm16 _ =>
    exact finish_regsKept h ((regsKept_write16 .refl _ _).bind fun _ hu => hu)
  -- read, then written
  | addD16Ax _ =>
    exact finish_regsKept h ((regsKept_read16 .refl _).bind fun _ _ => (regsKept_write16 .refl _ _).bind fun _ hu => hu)
  | incByteD16 _ | decByteD16 _ =>
    exact finish_regsKept h ((regsKept_read8 .refl _).bind fun _ _ => (regsKept_write8 .refl _ _).bind fun _ hu => hu)
  -- the stack
  | pushAx | pushCs | callRel16 _ => exact finish_regsKept h ((regsKept_push .refl (.head _) _).bind fun _ hu => hu)
  | popDs | popEs | ret => exact finish_regsKept h ((regsKept_pop .refl (.head _)).bind fun _ hu => hu)
  | popAx =>
    exact finish_regsKept h ((regsKept_pop .refl (.tail _ (.head _))).bind fun _ hu =>
      hu.setReg (r := .ax) (.head _) _)
  -- ports
  | inAlImm8 p | inAxImm8 p => cases h; exact (regsKept_portRead p).setReg (r := .ax) (.head _) _
  | outImm8Al p | outImm8Ax p => cases h; exact regsKept_portWrite p _
  -- interrupts
  | intImm8 n =>
    by_cases hi : s.flags.interrupt = true
    · simp only [exec, execIntImm8, if_pos hi] at h
      simp only [writes, if_pos hi]
      exact finish_regsKept h (regsKept_enterInterrupt ..)
    · simp only [exec, execIntImm8, if_neg hi] at h
      cases h
      exact .refl
  | iret => exact finish_regsKept h regsKept_interruptReturn

/-- Settles O38, from what each shared operation leaves of the registers. -/
theorem registersFrame : Obligations.RegistersFrame := by
  unfold Obligations.RegistersFrame
  intro i s t h
  exact exec_regsKept h

end Sys2Proof.Proofs
end
